-- ==== Sys2Proof/Word.lean ====
section
/-! DEFINITION. The value types of the codec: every value is an unsigned bit vector (R6, R8, R9).
Bit 0 is the least significant bit of each of them (R8). -/

namespace Sys2Proof

/-- A byte, 8 bits: CODEWORD_WIDTH, the ENC input width and LOCATION_WIDTH of R6. -/
abbrev Byte := BitVec 8

/-- A nibble, 4 bits: DATA_WIDTH of R6. -/
abbrev Nibble := BitVec 4

/-- One bit: a parity, an even flag, `reject_out` (R9, R10). -/
abbrev Bit := BitVec 1

end Sys2Proof
end

