-- ==== Sys2Proof/Syntax.lean ====
section
/-! DEFINITION. The two units, what the host can drive on them, and the operations of spec/opcode_table.json
(R51, R56): one constructor per row of the table. -/

namespace Sys2Proof

/-- The two units of the block (R1, R14). The unit that receives an input selects the operation (R51). -/
inductive UnitName where
  /-- ENC, `hamming_7_4_encoder`, whose input port is `data_in`. -/
  | enc
  /-- DEC, `hamming_7_4_syndrome_decoder`, whose input port is `codeword_in`. -/
  | dec
  deriving DecidableEq, Repr

/-- One input of the host: a byte driven on the one input port of a unit (R30, R36, R54). -/
structure Drive where
  unit : UnitName
  byte : Byte
  deriving DecidableEq, Repr

/-- The operations, one constructor per row of the opcode table (R56). -/
inductive Instr where
  /-- `ENCODE`, ENC, `0000 d3 d2 d1 d0`: the nibble `d` is offered to the encoder (R69). -/
  | encode (d : Nibble)
  /-- `ENCODE.reject`, ENC, `zzzz dddd` with `zzzz` not zero: the rejected class of ENCODE (R88). -/
  | encodeReject (z d : Nibble)
  /-- `VERIFY`, DEC, any byte `c` (R78). -/
  | verify (c : Byte)
  deriving DecidableEq, Repr

end Sys2Proof
end

