-- ==== Sys2Proof/WellFormed.lean ====
section
/-! DEFINITION. Which terms of `Instr` stand for a row's words: a rejected input has a non-zero high nibble
(R45, R53, R56); every nibble and every codeword byte is legal (R45, R49). -/

namespace Sys2Proof

/-- The row `ENCODE.reject` holds the DATA bytes whose bits 7:4 are not 0000 (R53, R56). -/
def Instr.wellFormed : Instr → Bool
  | .encode _ => true
  | .encodeReject z _ => z != 0#4
  | .verify _ => true

end Sys2Proof
end

