-- ==== Sys2Proof/Decode.lean ====
section
/-! DEFINITION. The decoder and the encoder of the opcode map (R56).
The block has no opcode bits: the unit selects the operation (R51), so the decoder proper reads a `Drive`.
To write an operation down as bytes the model adds a unit number after the port byte (assumption log 2). -/

namespace Sys2Proof

/-- What ENC's input byte stands for (R45, R56): ENCODE when `data_in & 0xF0` is 0, rejected otherwise. -/
def decodeData (b : Byte) : Instr :=
  if b &&& 0xF0#8 = 0#8 then .encode (b.extractLsb' 0 4)
  else .encodeReject (b.extractLsb' 4 4) (b.extractLsb' 0 4)

/-- The decoder (R56): first by unit, then by the byte on its port.
It is total, since no input of either unit is outside the map (R53). -/
def decode (d : Drive) : Instr :=
  match d.unit with
  | .enc => decodeData d.byte
  | .dec => .verify d.byte

/-- Why a list of bytes is no operation written down. -/
inductive DecodeError where
  /-- The second byte is the number of no unit: the block has two (R51). -/
  | noSuchUnit (n : Byte)
  /-- Not one port byte and one unit number: every input is exactly one byte (R54). -/
  | wrongLength (n : Nat)
  deriving DecidableEq, Repr

/-- The unit's number in the written form (assumption log 2). -/
def UnitName.number : UnitName → Byte
  | .enc => 0#8
  | .dec => 1#8

/-- The drive that two bytes write down: the byte for the port, then the unit's number. -/
def driveOfBytes : List Byte → Except DecodeError Drive
  | [b, n] =>
    if n = 0#8 then .ok ⟨.enc, b⟩
    else if n = 1#8 then .ok ⟨.dec, b⟩
    else .error (.noSuchUnit n)
  | bs => .error (.wrongLength bs.length)

/-- The decoder on bytes: total, rejecting by name what is no operation. -/
def decodeBytes (bs : List Byte) : Except DecodeError Instr :=
  (driveOfBytes bs).map decode

/-- The unit that performs an operation (R51). -/
def Instr.unit : Instr → UnitName
  | .encode _ => .enc
  | .encodeReject _ _ => .enc
  | .verify _ => .dec

/-- The byte an operation has on its unit's input port, from the patterns of R56. -/
def Instr.portByte : Instr → Byte
  | .encode d => 0#4 ++ d
  | .encodeReject z d => z ++ d
  | .verify c => c

/-- The drive that makes the block perform an operation. -/
def Instr.drive (i : Instr) : Drive := ⟨i.unit, i.portByte⟩

/-- The encoder: the bytes that write an operation down. -/
def encode (i : Instr) : List Byte := [i.portByte, i.unit.number]

/-- The bytes of a table word: the low `nbits` bits of `w`, bits above them 0, the first byte the low one.
A word of more than 16 bits is as many bytes as that takes, and no operation. -/
def tableWordBytes (nbits w : Nat) : List Byte :=
  let v := w % 2 ^ nbits
  if nbits ≤ 16 then [BitVec.ofNat 8 v, BitVec.ofNat 8 (v / 256)]
  else (List.range ((nbits + 7) / 8)).map fun k => BitVec.ofNat 8 (v / 256 ^ k)

/-- The operation the decoder reads from a word of the opcode table. The table's 8 bits are the port byte
alone, so a word of 8 bits is read as ENC's input, and VERIFY of `c` is the 16-bit word `0x0100 + c`
(assumption log 2). -/
def decodeTableWord (nbits w : Nat) : Option Instr :=
  (decodeBytes (tableWordBytes nbits w)).toOption

end Sys2Proof
end

