-- ==== Sys2Proof/Config.lean ====
section
/-! DEFINITION. What the spec leaves open: the two propagation delays (R7, D12; I9 treats them as a named argument).
Everything else the block is built from is a fixed constant (R6, R23) and stands in Machine/Constants.lean. -/

namespace Sys2Proof.Config

/-- The propagation delays `T_PD_ENC` and `T_PD_DEC` (R7): the time from a stable input to a stable output, in a unit the
spec does not name. They are an argument wherever they matter, and no rule depends on their values, so every
statement about them holds for all of them (assumption log 5). -/
structure Delays where
  tPdEnc : Nat
  tPdDec : Nat
  deriving DecidableEq, Repr

end Sys2Proof.Config
end

