-- ==== Sys2Proof/Machine/Constants.lean ====
section
/-! DEFINITION. The two fixed constants the block is built from (R23): the parity groups (R24) and the verify
decision table (R76). No input can read, write or select either of them. -/

namespace Sys2Proof.Machine

/-- The three parity groups (R24). -/
inductive ParityGroup where
  | r0
  | c0c1
  | c0c2
  deriving DecidableEq, Repr

/-- The bit positions of a group (R24; R0 holds 6 and not 7, as 90_conflicts.md C1 resolves). -/
def ParityGroup.members : ParityGroup → List Nat
  | .r0 => [6, 4, 2, 0]
  | .c0c1 => [3, 2, 1, 0]
  | .c0c2 => [5, 4, 1, 0]

/-- The group's mask as a byte (R6, R24). -/
def ParityGroup.mask : ParityGroup → Byte
  | .r0 => 0x55#8
  | .c0c1 => 0x0F#8
  | .c0c2 => 0x33#8

/-- The reserved slot that receives the group's parity (R46, R47; 92_eei_decisions.md D4). -/
def ParityGroup.slot : ParityGroup → Nat
  | .r0 => 6
  | .c0c1 => 2
  | .c0c2 => 4

/-- SENTINEL (R6): `checks all passed`. -/
def sentinel : Byte := 255#8

/-- `LOC_TABLE = [0, 2, 4, 6, 1, 3, 5, 255]` (R76). -/
def locTable : List Byte := [0#8, 2#8, 4#8, 6#8, 1#8, 3#8, 5#8, sentinel]

/-- `LOC_TABLE[syn]` (R76). The table has an entry for every 3-bit index, so the default is never read. -/
def locLookup (syn : BitVec 3) : Byte := locTable.getD syn.toNat sentinel

end Sys2Proof.Machine
end

