-- ==== Sys2Proof/Machine/Operands.lean ====
section
/-! DEFINITION. Bit fields and operand assembly: single bits (R8, R10), the DATA byte (R44, R52) and the
spreading step (R63). -/

namespace Sys2Proof.Machine

/-- `v[i]`: bit `i` of `v`, bit 0 the least significant (R8, R10). -/
def bitAt {w : Nat} (v : BitVec w) (i : Nat) : Bit := v.extractLsb' i 1

/-- `zext_8(b) << k`: one bit placed at position `k` of a byte of zeros (R10). -/
def bitPlacedAt (b : Bit) (k : Nat) : Byte := b.setWidth 8 <<< k

/-- The DATA byte of R44: the field `z` in bits 7:4, the nibble in bits 3:0. -/
def dataByte (z d : Nibble) : Byte := z ++ d

/-- The field `z` of a DATA byte, `data_in[7:4]` (R44). -/
def highNibble (b : Byte) : Nibble := b.extractLsb' 4 4

/-- The working byte `w0 = {0, 0, data_in[3], 0, data_in[2], 0, data_in[1], data_in[0]}` (R63). -/
def spread (b : Byte) : Byte :=
  0#1 ++ 0#1 ++ bitAt b 3 ++ 0#1 ++ bitAt b 2 ++ 0#1 ++ bitAt b 1 ++ bitAt b 0

end Sys2Proof.Machine
end

