-- ==== Sys2Proof/Machine/Flags.lean ====
section
/-! DEFINITION. The flags of both units, all combinational: parities (R11), even flags (R12, R75), the syndrome
(R28, R75) and ENC's reject flag (R27, R62). -/

namespace Sys2Proof.Machine

/-- `parity(v, G)`: the XOR of `v[i]` over the positions `i` of the group (R10, R11). -/
def parity (v : Byte) (g : ParityGroup) : Bit :=
  g.members.foldr (fun i acc => bitAt v i ^^^ acc) 0#1

/-- The even flag `~parity(v, G)` (R12, R75). -/
def evenFlag (v : Byte) (g : ParityGroup) : Bit := ~~~ parity v g

/-- `syn = {even_r0, even_c0c1, even_c0c2}`, `even_r0` most significant (R28, R75). -/
def syndrome (evenR0 evenC0c1 evenC0c2 : Bit) : BitVec 3 := evenR0 ++ evenC0c1 ++ evenC0c2

/-- `reject = (data_in[7:4] != 0b0000)` (R27, R62). -/
def rejectFlag (b : Byte) : Bit := if highNibble b = 0#4 then 0#1 else 1#1

end Sys2Proof.Machine
end

