-- ==== Sys2Proof/Machine/State.lean ====
section
/-! DEFINITION. What the model holds of the block: the values on the ports and signals of ENC and DEC, and the
inputs the host is about to drive. The block has no registers, no program counter, no status or control
registers, no memory and no hidden state (R17 to R22), so there is nothing else to hold.
A signal is no state of the block: in a settled unit each one is the unit's fixed function of its input (R15, R29),
and Safety.lean says so as an invariant. -/

namespace Sys2Proof.Machine

/-- The one failure of the block (R85, R87, R88). -/
inductive EncFailure where
  /-- `data_in` has any of bits 7:4 set. Reported on `reject_out`, not trapped (R89). -/
  | notRepresentable
  deriving DecidableEq, Repr

/-- The values ENC forms while it encodes (R27, and `w3` of R66). -/
structure EncSteps where
  /-- the working byte after spreading (R63) -/
  w0 : Byte
  /-- parity of C0C1 over `w0` (R64) -/
  pC0c1 : Bit
  /-- `w0` with `pC0c1` at bit 2 (R64) -/
  w1 : Byte
  /-- parity of C0C2 over `w1` (R65) -/
  pC0c2 : Bit
  /-- `w1` with `pC0c2` at bit 4 (R65) -/
  w2 : Byte
  /-- parity of R0 over `w2` (R66) -/
  pR0 : Bit
  /-- `w2` with `pR0` at bit 6: the codeword (R66, R67) -/
  w3 : Byte
  deriving DecidableEq, Repr

/-- ENC: its ports (R25) and internal signals (R27). -/
structure Enc where
  /-- `data_in[7:0]`, the byte the host drives. -/
  dataIn : Byte
  /-- the input has been a defined byte, stable for `T_PD_ENC` (R15, R101, R103): the outputs may be sampled. -/
  settled : Bool
  /-- `reject` (R27, R62). -/
  reject : Bit
  /-- the encoding steps; `none` when the input is rejected, since then no parity is computed (R92). -/
  steps : Option EncSteps
  /-- `codeword_out[7:0]`. -/
  codewordOut : Byte
  /-- `reject_out`. -/
  rejectOut : Bit
  deriving DecidableEq, Repr

/-- DEC: its ports (R26) and internal signals (R28, R74, R75). -/
structure Dec where
  /-- `codeword_in[7:0]`, the byte the host drives. -/
  codewordIn : Byte
  /-- the input has been a defined byte, stable for `T_PD_DEC` (R15, R101, R103). -/
  settled : Bool
  /-- the recomputed parities of R74 -/
  qR0 : Bit
  qC0c1 : Bit
  qC0c2 : Bit
  /-- the even flags of R75 -/
  evenR0 : Bit
  evenC0c1 : Bit
  evenC0c2 : Bit
  /-- `syn[2:0]` (R28) -/
  syn : BitVec 3
  /-- `location_out[7:0]`. -/
  locationOut : Byte
  deriving DecidableEq, Repr

/-- The block and what the host is about to do to it. -/
structure State where
  enc : Enc
  dec : Dec
  /-- the inputs the host drives next, the first one first (R14, R16, R30). The model's own field: it stands for
  the host, the only agent that starts anything (assumption log 1). -/
  pending : List Drive
  deriving DecidableEq, Repr

/-- Why a run of the driver layer stops (Machine/Driver.lean). The block itself has nothing that stops it (R85, R89),
so neither `exec` nor `step` ever answers a fault. Each of these is safe: the model stops where R57 gives no value. -/
inductive Fault where
  /-- Raised by the driver layer only: a host program reads a variable that holds no value yet (R57). Safe. -/
  | unwrittenVariable (v : Fin 16)
  /-- Raised by the driver layer only: a host program tests `rej` before any ENCODE has written it (R57). Safe. -/
  | unwrittenRej
  /-- Raised by the driver layer only: the host program goes on at a line it does not have (R57). Safe. -/
  | noSuchLine (n : Nat)
  deriving DecidableEq, Repr

/-- Why the model gives no meaning. -/
inductive Refusal where
  /-- Raised by `exec` for an operation that has no meaning yet: for none, here. Safe. -/
  | notModelled (mnemonic : String)
  /-- Raised by sampling a unit's outputs before its input has settled, where the spec admits no observation
  (R36, R101, R105; 93_implementation_defined.md I7, I8). Never raised by `exec` or `step`. Safe. -/
  | outputsNotSettled (u : UnitName)
  deriving DecidableEq, Repr

/-- ENC right after power-up: no defined byte has been driven, so it is not settled and nothing can be sampled
(R100, R101). The spec gives no signal a value here; these are the model's (DESIGN CHOICE, assumption log 3). -/
def Enc.reset : Enc :=
  { dataIn := 0x00#8, settled := false, reject := 0#1
    steps := some { w0 := 0x00#8, pC0c1 := 0#1, w1 := 0x00#8, pC0c2 := 0#1, w2 := 0x00#8, pR0 := 0#1, w3 := 0x00#8 }
    codewordOut := 0x00#8, rejectOut := 0#1 }

/-- DEC right after power-up (R100, R101; DESIGN CHOICE, assumption log 3). -/
def Dec.reset : Dec :=
  { codewordIn := 0x00#8, settled := false, qR0 := 0#1, qC0c1 := 0#1, qC0c2 := 0#1
    evenR0 := 1#1, evenC0c1 := 1#1, evenC0c2 := 1#1, syn := 7#3, locationOut := 255#8 }

/-- The machine right after power-up. The block has no reset input and no boot sequence (R100, R102);
the host has driven nothing yet. -/
def State.reset : State := { enc := Enc.reset, dec := Dec.reset, pending := [] }

end Sys2Proof.Machine
end

