-- ==== Sys2Proof/Machine/DecLogic.lean ====
section
/-! DEFINITION. DEC's combinational logic: the steps of VERIFY (R74 to R77) as a function of `codeword_in` alone. -/

namespace Sys2Proof.Machine

/-- DEC settled on the byte `c` (R74 to R78): parities, even flags, the syndrome and the table's entry.
It never fails (R77, R86). -/
def decLogic (c : Byte) : Dec :=
  let qR0 := parity c .r0
  let qC0c1 := parity c .c0c1
  let qC0c2 := parity c .c0c2
  let evenR0 := evenFlag c .r0
  let evenC0c1 := evenFlag c .c0c1
  let evenC0c2 := evenFlag c .c0c2
  let syn := syndrome evenR0 evenC0c1 evenC0c2
  { codewordIn := c, settled := true, qR0, qC0c1, qC0c2, evenR0, evenC0c1, evenC0c2, syn,
    locationOut := locLookup syn }

end Sys2Proof.Machine
end

