-- ==== Sys2Proof/Machine/EncLogic.lean ====
section
/-! DEFINITION. ENC's combinational logic: the steps of ENCODE (R62 to R67) as a function of `data_in` alone. -/

namespace Sys2Proof.Machine

/-- The spreading, parity and insertion steps of a byte that is not rejected (R63 to R66).
R0's parity is taken after bits 2 and 4 are inserted (R66; 90_conflicts.md C4). -/
def encSteps (b : Byte) : EncSteps :=
  let w0 := spread b
  let pC0c1 := parity w0 .c0c1
  let w1 := w0 ||| bitPlacedAt pC0c1 ParityGroup.c0c1.slot
  let pC0c2 := parity w1 .c0c2
  let w2 := w1 ||| bitPlacedAt pC0c2 ParityGroup.c0c2.slot
  let pR0 := parity w2 .r0
  let w3 := w2 ||| bitPlacedAt pR0 ParityGroup.r0.slot
  { w0, pC0c1, w1, pC0c2, w2, pR0, w3 }

/-- ENCODE as the document's `encode(nibble) -> Result<Codeword, Error>` (R59, R69; I3): the steps, or the one
failure when any of `data_in[7:4]` is 1. -/
def encLogic (b : Byte) : Except EncFailure EncSteps :=
  if rejectFlag b = 1#1 then .error .notRepresentable else .ok (encSteps b)

/-- The cause code that `reject_out` signals: 1 for NotRepresentable, 0 for success (R88; D7). -/
def causeCode : Except EncFailure EncSteps → Bit
  | .error .notRepresentable => 1#1
  | .ok _ => 0#1

end Sys2Proof.Machine
end

