-- ==== Sys2Proof/Machine/Ops.lean ====
section
/-! DEFINITION. The named operations on a unit and on the state: driving an input, settling, reporting the one
failure, evaluating, sampling, and the host's queue of inputs.
There is no memory and no register to read or write (R17, R21, R31). -/

namespace Sys2Proof.Machine

/-- The host drives `b` on `data_in`. A unit whose input does not change stays settled (R103); one whose input
changes is not settled, and its outputs cannot be sampled until it is (R36, R105). -/
def Enc.drive (b : Byte) (e : Enc) : Enc :=
  { e with dataIn := b, settled := e.settled && b == e.dataIn }

/-- TAKING THE ONE EXCEPTION (R62, R88, R89): NotRepresentable is reported on `reject_out`, with 0x00 on
`codeword_out` (D3). Nothing is saved, no mode changes, no vector is taken; no parity is computed (R92).
There is no return from it: the next stable input gives its own outputs (R90). -/
def Enc.reportNotRepresentable (e : Enc) : Enc :=
  { e with reject := 1#1, steps := none, codewordOut := 0x00#8
           rejectOut := causeCode (.error .notRepresentable) }

/-- The result of an ENCODE that is not rejected (R67). -/
def Enc.deliver (st : EncSteps) (e : Enc) : Enc :=
  { e with reject := 0#1, steps := some st, codewordOut := st.w3, rejectOut := causeCode (.ok st) }

/-- The input has been stable for `T_PD_ENC`: the outputs are ENC's function of it (R15, R69, R103). -/
def Enc.settle (e : Enc) : Enc :=
  match encLogic e.dataIn with
  | .error .notRepresentable => { e.reportNotRepresentable with settled := true }
  | .ok st => { e.deliver st with settled := true }

/-- One evaluation of ENC (R103): drive the byte, hold it until it has settled. -/
def Enc.evaluate (b : Byte) (e : Enc) : Enc := (e.drive b).settle

/-- The host drives `b` on `data_in` and holds it for the time `t`; the outputs are ENC's function of it only
if that is at least `T_PD_ENC` (R105). -/
def Enc.driveFor (T : Config.Delays) (b : Byte) (t : Nat) (e : Enc) : Enc :=
  if T.tPdEnc ≤ t then (e.drive b).settle else e.drive b

/-- Sampling ENC's outputs, `codeword_out` and `reject_out`: refused unless settled (R36, R101, R105). -/
def Enc.sample (e : Enc) : Except Refusal (Byte × Bit) :=
  if e.settled then .ok (e.codewordOut, e.rejectOut) else .error (.outputsNotSettled .enc)

/-- What a host that keeps its duty (R30, R106) reads of a sample: a codeword only when `reject_out` is 0. -/
def codewordOf (sample : Byte × Bit) : Except EncFailure Byte :=
  if sample.2 = 0#1 then .ok sample.1 else .error .notRepresentable

/-- The host drives `c` on `codeword_in`. -/
def Dec.drive (c : Byte) (d : Dec) : Dec :=
  { d with codewordIn := c, settled := d.settled && c == d.codewordIn }

/-- The input has been stable for `T_PD_DEC`: the output is DEC's function of it (R15, R78, R103). -/
def Dec.settle (d : Dec) : Dec := decLogic d.codewordIn

/-- One evaluation of DEC (R103). -/
def Dec.evaluate (c : Byte) (d : Dec) : Dec := (d.drive c).settle

/-- The host drives `c` on `codeword_in` and holds it for the time `t` (R105). -/
def Dec.driveFor (T : Config.Delays) (c : Byte) (t : Nat) (d : Dec) : Dec :=
  if T.tPdDec ≤ t then (d.drive c).settle else d.drive c

/-- Sampling DEC's output, `location_out`: refused unless settled (R36, R101, R105). -/
def Dec.sample (d : Dec) : Except Refusal Byte :=
  if d.settled then .ok d.locationOut else .error (.outputsNotSettled .dec)

/-- Evaluating ENC within the block: it touches ENC's ports and signals only (R37). -/
def State.evaluateEnc (b : Byte) (s : State) : State := { s with enc := s.enc.evaluate b }

/-- Evaluating DEC within the block: it touches DEC's ports and signals only (R37). -/
def State.evaluateDec (c : Byte) (s : State) : State := { s with dec := s.dec.evaluate c }

/-- The host puts one more input in front of those it drives next. -/
def State.offer (d : Drive) (s : State) : State := { s with pending := d :: s.pending }

/-- The input the host drives next, and the state with that input taken off the queue. -/
def State.takeDrive (s : State) : Option (Drive × State) :=
  match s.pending with
  | [] => none
  | d :: rest => some (d, { s with pending := rest })

/-- The state with the operation that bytes write down as the input the host drives next; bytes that are no operation
are offered to no unit. -/
def State.offerBytes (bs : List Byte) (s : State) : State :=
  match driveOfBytes bs with
  | .ok d => s.offer d
  | .error _ => s

end Sys2Proof.Machine
end

