-- ==== Sys2Proof/Machine/Encode.lean ====
section
/-! DEFINITION. The meanings of ENC's operation: ENCODE (R69) and its rejected class (R88). -/

namespace Sys2Proof.Machine

/-- ENCODE of the nibble `d`: `data_in` is `0000 d3 d2 d1 d0` (R44, R69). -/
def execEncode (d : Nibble) (s : State) : Host.Outcome State Fault Refusal :=
  .next (s.evaluateEnc (dataByte 0#4 d))

/-- ENCODE of a byte with bits 7:4 set: NotRepresentable is reported and the machine goes on (R62, R88, R89). -/
def execEncodeReject (z d : Nibble) (s : State) : Host.Outcome State Fault Refusal :=
  .next (s.evaluateEnc (dataByte z d))

end Sys2Proof.Machine
end

