-- ==== Sys2Proof/Machine/Verify.lean ====
section
/-! DEFINITION. The meaning of DEC's operation: VERIFY (R78). -/

namespace Sys2Proof.Machine

/-- VERIFY of the byte `c` (R78): any byte, and never a failure (R77). -/
def execVerify (c : Byte) (s : State) : Host.Outcome State Fault Refusal :=
  .next (s.evaluateDec c)

end Sys2Proof.Machine
end

