-- ==== Sys2Proof/Machine/Dispatch.lean ====
section
/-! DEFINITION. One arm per operation of the opcode table. -/

namespace Sys2Proof.Machine

def exec (i : Instr) (s : State) : Host.Outcome State Fault Refusal :=
  match i with
  | .encode d => Sys2Proof.Machine.execEncode d s
  | .encodeReject z d => Sys2Proof.Machine.execEncodeReject z d s
  | .verify c => Sys2Proof.Machine.execVerify c s

end Sys2Proof.Machine
end

