-- ==== Sys2Proof/Machine/Step.lean ====
section
/-! DEFINITION. One step: the host drives its next input, and the unit that receives it evaluates it (R14, R51, R103). -/

namespace Sys2Proof.Machine

/-- One step of the machine. The units never act on their own (R14): with no input to come nothing changes, since
no later event changes the outputs while the input stays the same (R103). -/
def step (s : State) : Host.Outcome State Fault Refusal :=
  match s.takeDrive with
  | none => .next s
  | some (d, s') => exec (decode d) s'

/-- The state with the operation of a table word as the input the host drives next. The rest of the queue stays behind
it. A word that is no operation (a unit number above 1) is offered to no unit. -/
def State.withFetchWord (s : State) (nbits w : Nat) : State :=
  s.offerBytes (tableWordBytes nbits w)

end Sys2Proof.Machine
end

