-- ==== Sys2Proof/Machine/Driver.lean ====
section
/-! DEFINITION. The driver layer: the host programs of R57, which use the block. The host is no part of the hardware
(R5, R16), so nothing here is in `State`: a `Driver` holds the host's variables and the block it drives. -/

namespace Sys2Proof.Machine

/-- A host variable, `v0` to `v15` (R57). -/
abbrev Var := Fin 16

/-- An operand `#imm8` or `vS` (R57). -/
inductive Source where
  | imm (b : Byte)
  | var (v : Var)
  deriving DecidableEq, Repr

/-- The position of a FLIP: `#k`, 0 to 7, or `vK[2:0]` (R57). -/
inductive FlipPosition where
  | imm (k : BitVec 3)
  | var (v : Var)
  deriving DecidableEq, Repr

/-- The forms of R57. A label is the number of the line it stands at (assumption log 6). -/
inductive DriverOp where
  /-- `ENCODE vD, #imm8` / `ENCODE vD, vS`: the block's operation -/
  | encode (vD : Var) (src : Source)
  /-- `VERIFY vD, #imm8` / `VERIFY vD, vS`: the block's operation -/
  | verify (vD : Var) (src : Source)
  /-- `FLIP vD, vS, #k` / `FLIP vD, vS, vK`: noise injection -/
  | flip (vD vS : Var) (k : FlipPosition)
  /-- `MOV vD, #imm8` / `MOV vD, vS` -/
  | mov (vD : Var) (src : Source)
  /-- `AND vD, vS, #imm8` -/
  | and (vD vS : Var) (imm : Byte)
  /-- `XOR vD, vS, #imm8` / `XOR vD, vS, vT` -/
  | xor (vD vS : Var) (src : Source)
  /-- `ADD vD, vS, #imm8` -/
  | add (vD vS : Var) (imm : Byte)
  /-- `B label` -/
  | b (label : Nat)
  /-- `BNE vA, #imm8, label` -/
  | bne (vA : Var) (imm : Byte) (label : Nat)
  /-- `BEQ vA, #imm8, label` -/
  | beq (vA : Var) (imm : Byte) (label : Nat)
  /-- `BREJ label` -/
  | brej (label : Nat)
  /-- `HALT` -/
  | halt
  deriving DecidableEq, Repr

/-- A host in the middle of a program, with the block it drives (R16, R57). -/
structure Driver where
  /-- `v0` to `v15`; `none` until it is written: R57 says that a variable then holds no value. -/
  vars : Vector (Option Byte) 16
  /-- `rej`; `none` until an ENCODE writes it (R57). -/
  rej : Option Bit
  /-- the line the host goes on at -/
  line : Nat
  /-- `HALT` has been reached -/
  halted : Bool
  /-- the block -/
  block : State
  deriving DecidableEq, Repr

/-- The start of a host program: nothing written (R57; 95_test_vectors.md section 3). -/
def Driver.start : Driver :=
  { vars := Vector.replicate 16 none, rej := none, line := 0, halted := false, block := State.reset }

/-- The value of a host variable; a variable that is not written holds none (R57). -/
def Driver.read (v : Var) (D : Driver) : Except Fault Byte :=
  match D.vars[v] with
  | some b => .ok b
  | none => .error (.unwrittenVariable v)

/-- The value of an operand. -/
def Driver.readSource (src : Source) (D : Driver) : Except Fault Byte :=
  match src with
  | .imm b => .ok b
  | .var v => D.read v

/-- The value of a FLIP position; of a variable its bits 2:0 (R57). -/
def Driver.readPosition (k : FlipPosition) (D : Driver) : Except Fault (BitVec 3) :=
  match k with
  | .imm i => .ok i
  | .var v => (D.read v).map fun b => b.extractLsb' 0 3

/-- Writes a host variable and goes on at the next line. -/
def Driver.write (vD : Var) (b : Byte) (D : Driver) : Driver :=
  { D with vars := D.vars.set vD (some b), line := D.line + 1 }

/-- Goes on at the label if `taken`, else at the next line. -/
def Driver.branch (taken : Bool) (label : Nat) (D : Driver) : Driver :=
  { D with line := if taken then label else D.line + 1 }

/-- Goes on with a value, or stops where there is none. -/
def orStop {α : Type} (x : Except Fault α) (k : α → Host.Outcome Driver Fault Refusal) : Host.Outcome Driver Fault Refusal :=
  match x with
  | .ok a => k a
  | .error f => .fault f

/-- The host drives one input and waits until it has settled: one step of the block. -/
def Driver.evaluate (d : Drive) (D : Driver) (k : State → Host.Outcome Driver Fault Refusal) :
    Host.Outcome Driver Fault Refusal :=
  match step (D.block.offer d) with
  | .next s => k s
  | .fault f => .fault f
  | .refused r => .refused r

/-- `ENCODE` of a byte: `vD <- codeword_out`, `rej <- reject_out` (R57). -/
def Driver.encode (vD : Var) (b : Byte) (D : Driver) : Host.Outcome Driver Fault Refusal :=
  D.evaluate ⟨.enc, b⟩ fun s =>
    match s.enc.sample with
    | .ok o => .next { D.write vD o.1 with rej := some o.2, block := s }
    | .error r => .refused r

/-- `VERIFY` of a byte: `vD <- location_out` (R57). -/
def Driver.verify (vD : Var) (c : Byte) (D : Driver) : Host.Outcome Driver Fault Refusal :=
  D.evaluate ⟨.dec, c⟩ fun s =>
    match s.dec.sample with
    | .ok l => .next { D.write vD l with block := s }
    | .error r => .refused r

/-- What one form of R57 does. -/
def Driver.perform (op : DriverOp) (D : Driver) : Host.Outcome Driver Fault Refusal :=
  match op with
  | .encode vD src => orStop (D.readSource src) fun b => D.encode vD b
  | .verify vD src => orStop (D.readSource src) fun c => D.verify vD c
  | .flip vD vS k => orStop (D.read vS) fun b => orStop (D.readPosition k) fun i =>
      .next (D.write vD (b ^^^ (1#8 <<< i.toNat)))
  | .mov vD src => orStop (D.readSource src) fun b => .next (D.write vD b)
  | .and vD vS imm => orStop (D.read vS) fun b => .next (D.write vD (b &&& imm))
  | .xor vD vS src => orStop (D.read vS) fun b => orStop (D.readSource src) fun c =>
      .next (D.write vD (b ^^^ c))
  | .add vD vS imm => orStop (D.read vS) fun b => .next (D.write vD (b + imm))
  | .b label => .next (D.branch true label)
  | .bne vA imm label => orStop (D.read vA) fun a => .next (D.branch (a != imm) label)
  | .beq vA imm label => orStop (D.read vA) fun a => .next (D.branch (a == imm) label)
  | .brej label =>
      match D.rej with
      | some r => .next (D.branch (r == 1#1) label)
      | none => .fault .unwrittenRej
  | .halt => .next { D with halted := true }

/-- One line of a host program; after `HALT` nothing more happens. -/
def Driver.step (prog : List DriverOp) (D : Driver) : Host.Outcome Driver Fault Refusal :=
  if D.halted then .next D
  else
    match prog[D.line]? with
    | some op => D.perform op
    | none => .fault (.noSuchLine D.line)

end Sys2Proof.Machine
end

