-- ==== Sys2Proof/Machine/Instances.lean ====
section
/-! DEFINITION. Any number of ENC and DEC instances (R97, R40). Each obeys the rules on its own and they share no
state, so a fleet is two lists of units and an evaluation touches one of them.
`State` holds one unit of each kind; a fleet is how several stand side by side. -/

namespace Sys2Proof.Machine

/-- ENC and DEC instances. An ENC need not be paired with a DEC (R97), so the lists are of any lengths. -/
structure Fleet where
  encs : List Enc
  decs : List Dec
  deriving DecidableEq, Repr

/-- One evaluation of one instance. No instance has an identifier in the spec (R97); `index` is the model's way to
say which one is meant. -/
structure Evaluation where
  unit : UnitName
  index : Nat
  byte : Byte
  deriving DecidableEq, Repr

/-- The instance an evaluation drives. -/
def Evaluation.target (e : Evaluation) : UnitName × Nat := (e.unit, e.index)

/-- What a unit shows at its output ports (R25, R26). -/
inductive UnitOutput where
  | enc (codewordOut : Byte) (rejectOut : Bit)
  | dec (locationOut : Byte)
  deriving DecidableEq, Repr

/-- The fleet has the instance an evaluation names. -/
def Fleet.hasTarget (e : Evaluation) (F : Fleet) : Bool :=
  match e.unit with
  | .enc => e.index < F.encs.length
  | .dec => e.index < F.decs.length

/-- One instance evaluates one byte; no other instance sees it (R97). -/
def Fleet.evaluate (e : Evaluation) (F : Fleet) : Fleet :=
  match e.unit with
  | .enc => { F with encs := F.encs.modify e.index (Enc.evaluate e.byte) }
  | .dec => { F with decs := F.decs.modify e.index (Dec.evaluate e.byte) }

/-- Sampling the outputs of one instance; `none` when there is no such instance. -/
def Fleet.sample (target : UnitName × Nat) (F : Fleet) : Option (Except Refusal UnitOutput) :=
  match target.1 with
  | .enc => F.encs[target.2]?.map fun e => e.sample.map fun o => .enc o.1 o.2
  | .dec => F.decs[target.2]?.map fun d => d.sample.map .dec

/-- The fleet after a list of evaluations, the first one first. -/
def Fleet.run (es : List Evaluation) (F : Fleet) : Fleet :=
  es.foldl (fun G e => G.evaluate e) F

/-- What a host sees that samples each evaluation's instance right after it. -/
def Fleet.outputs : List Evaluation → Fleet → List (Option (Except Refusal UnitOutput))
  | [], _ => []
  | e :: es, F => (F.evaluate e).sample e.target :: Fleet.outputs es (F.evaluate e)

end Sys2Proof.Machine
end

