-- ==== Sys2Proof/Safety.lean ====
section
/-! DEFINITION. What claims are stated in: the closed forms the spec derives for both units (R63 to R68, R79), valid
codewords (R58), and the invariant that a settled unit shows its function of its input (R15).
The closed forms are written from the rules bit by bit and call nothing of Machine/'s logic. -/

namespace Sys2Proof.Safety

open Sys2Proof.Machine

/-- Bit `i` of a value, as one bit (R8). -/
def bit {w : Nat} (v : BitVec w) (i : Nat) : Bit := BitVec.ofBool (v.getLsbD i)

/-- A byte with one bit set: `1 << p` (R10). -/
def oneAt (p : Nat) : Byte := BitVec.twoPow 8 p

/-- The codeword of R68: `{0, d0^d2^d3, d3, d0^d1^d3, d2, d0^d1^d2, d1, d0}`. -/
def codewordFor (d : Nibble) : Byte :=
  0#1 ++ (bit d 0 ^^^ bit d 2 ^^^ bit d 3) ++ bit d 3 ++ (bit d 0 ^^^ bit d 1 ^^^ bit d 3) ++ bit d 2 ++
    (bit d 0 ^^^ bit d 1 ^^^ bit d 2) ++ bit d 1 ++ bit d 0

/-- The working byte of R63: `{0, 0, d3, 0, d2, 0, d1, d0}`. -/
def workingByteFor (d : Nibble) : Byte :=
  0#1 ++ 0#1 ++ bit d 3 ++ 0#1 ++ bit d 2 ++ 0#1 ++ bit d 1 ++ bit d 0

/-- Every value of R63 to R66 for a nibble, written out bit by bit. -/
def stepsFor (d : Nibble) : EncSteps :=
  let pa := bit d 0 ^^^ bit d 1 ^^^ bit d 2
  let pb := bit d 0 ^^^ bit d 1 ^^^ bit d 3
  let pr := bit d 0 ^^^ bit d 2 ^^^ bit d 3
  { w0 := workingByteFor d
    pC0c1 := pa
    w1 := 0#1 ++ 0#1 ++ bit d 3 ++ 0#1 ++ bit d 2 ++ pa ++ bit d 1 ++ bit d 0
    pC0c2 := pb
    w2 := 0#1 ++ 0#1 ++ bit d 3 ++ pb ++ bit d 2 ++ pa ++ bit d 1 ++ bit d 0
    pR0 := pr
    w3 := codewordFor d }

/-- ENC settled on the byte `b`: R68 for a legal byte, R62 for one with any of bits 7:4 set. -/
def encFor (b : Byte) : Enc :=
  if b.toNat < 16 then
    { dataIn := b, settled := true, reject := 0#1, steps := some (stepsFor (b.setWidth 4))
      codewordOut := codewordFor (b.setWidth 4), rejectOut := 0#1 }
  else
    { dataIn := b, settled := true, reject := 1#1, steps := none, codewordOut := 0x00#8, rejectOut := 1#1 }

/-- The parity of a group's positions as an XOR of four bits (R24, R74). -/
def xorFour (c : Byte) (i j k l : Nat) : Bit := bit c i ^^^ bit c j ^^^ bit c k ^^^ bit c l

/-- The location of R79's form 1: `k = {even_c0c1, even_c0c2, even_r0}`, and 255 when `k` is 7. -/
def locationFor (c : Byte) : Byte :=
  let k : BitVec 3 := ~~~ xorFour c 3 2 1 0 ++ ~~~ xorFour c 5 4 1 0 ++ ~~~ xorFour c 6 4 2 0
  if k = 7#3 then 255#8 else k.setWidth 8

/-- DEC settled on the byte `c` (R74 to R79). -/
def decFor (c : Byte) : Dec :=
  let q0 := xorFour c 6 4 2 0
  let q1 := xorFour c 3 2 1 0
  let q2 := xorFour c 5 4 1 0
  { codewordIn := c, settled := true, qR0 := q0, qC0c1 := q1, qC0c2 := q2
    evenR0 := ~~~ q0, evenC0c1 := ~~~ q1, evenC0c2 := ~~~ q2
    syn := ~~~ q0 ++ ~~~ q1 ++ ~~~ q2, locationOut := locationFor c }

/-- What a unit shows for an input, by the closed forms alone. -/
def outputFor : UnitName → Byte → UnitOutput
  | .enc, b => .enc (encFor b).codewordOut (encFor b).rejectOut
  | .dec, c => .dec (locationFor c)

/-- A valid codeword (R58): bit 7 is 0 and every group is consistent. -/
def ValidCodeword (c : Byte) : Prop :=
  c.getLsbD 7 = false ∧ ∀ g : ParityGroup, parity c g = 0#1

/-- The number of positions in which two bytes differ. -/
def distance (a b : Byte) : Nat := ((List.range 8).filter fun i => (a ^^^ b).getLsbD i).length

/-- R15 for ENC: once its input is settled, every port and signal is ENC's function of that input. -/
def EncCoherent (e : Enc) : Prop := e.settled = true → e = encFor e.dataIn

/-- R15 for DEC. -/
def DecCoherent (d : Dec) : Prop := d.settled = true → d = decFor d.codewordIn

/-- R15 for the block: in each settled unit, every port and signal is the unit's function of its input alone. -/
def Coherent (s : State) : Prop := EncCoherent s.enc ∧ DecCoherent s.dec

/-- The last byte that a queue of inputs has for a unit. -/
def lastFor (u : UnitName) (ds : List Drive) : Option Byte :=
  ((ds.filter fun d => d.unit == u).map Drive.byte).getLast?

end Sys2Proof.Safety
end

