-- ==== Sys2Proof/Certificates/Slice0/Obligations.lean ====
section
/-! DEFINITION. The statements for the provers. Each docstring names the rule of spec/ it formalises.
The closed forms (`codewordFor`, `stepsFor`, `encFor`, `locationFor`, `decFor`) are Safety.lean's: they are written
bit by bit from the rules and call nothing of the machine's logic.
The block has no memory and no registers (R17, R21), so a frame here says that the other unit and the host's queue are
as before. -/

open Sys2Proof Sys2Proof.Machine Sys2Proof.Safety

/-! ### Encoding -/

/-- Words written out from the patterns of R56. `VERIFY` words carry the unit number above the port byte, which is the
model's own way to write the unit down (DESIGN CHOICE, assumption log 2). -/
def Obligations.SampleWordsDecode : Prop :=
  decodeTableWord 8 0b00000101 = some (.encode 0b0101#4) ∧
  decodeTableWord 8 0b00001111 = some (.encode 0b1111#4) ∧
  decodeTableWord 8 0b00011010 = some (.encodeReject 0b0001#4 0b1010#4) ∧
  decodeTableWord 8 0b10000000 = some (.encodeReject 0b1000#4 0b0000#4) ∧
  decodeTableWord 16 0b0000000100011101 = some (.verify 0b00011101#8) ∧
  decodeTableWord 16 0b0000001000011101 = none

/-- R45: a DATA byte is legal if and only if its bits 7:4 are 0; the 16 legal bytes are encoded and the 240 others are
rejected. -/
def Obligations.DataByteLegalIffHighNibbleZero : Prop :=
  ∀ (b : Byte) (s : State), ∃ t, exec (decode ⟨.enc, b⟩) s = .next t ∧
    (b.extractLsb' 4 4 = 0#4 ↔ b.toNat < 16) ∧
    (b.toNat < 16 → decode ⟨.enc, b⟩ = .encode (b.setWidth 4) ∧
      t.enc.codewordOut = codewordFor (b.setWidth 4) ∧ t.enc.rejectOut = 0#1) ∧
    (16 ≤ b.toNat → (∃ z d, z ≠ 0#4 ∧ decode ⟨.enc, b⟩ = .encodeReject z d) ∧ t.enc.rejectOut = 1#1)

/-- R56: first select by unit; for ENC the input matches ENCODE when `(data_in & 0xF0) == 0x00` and is rejected otherwise;
for DEC every input matches VERIFY. The fields are the table's. -/
def Obligations.OpcodeMapSelectsByUnitThenMask : Prop :=
  ∀ b : Byte,
    (b &&& 0xF0#8 = 0#8 → ∃ d : Nibble, decode ⟨.enc, b⟩ = .encode d ∧ ∀ i, i < 4 → d.getLsbD i = b.getLsbD i) ∧
    (b &&& 0xF0#8 ≠ 0#8 → ∃ z d : Nibble, decode ⟨.enc, b⟩ = .encodeReject z d ∧
      ∀ i, i < 4 → d.getLsbD i = b.getLsbD i ∧ z.getLsbD i = b.getLsbD (i + 4)) ∧
    decode ⟨.dec, b⟩ = .verify b

/-- Decoding gives back every well-formed operation, from the input the host drives and from its written form
(whose unit number is the model's, DESIGN CHOICE, assumption log 2). -/
def Obligations.DecodeOfEncodeIsIdentity : Prop :=
  ∀ i : Instr, i.wellFormed = true → decodeBytes (encode i) = .ok i ∧ decode i.drive = i

/-- The other direction: every byte on either unit stands for one well-formed operation, whose drive it is. -/
def Obligations.EveryDriveIsOneOperation : Prop :=
  ∀ d : Drive, (decode d).wellFormed = true ∧ (decode d).drive = d ∧
    ∀ i : Instr, i.wellFormed = true → i.drive = d → i = decode d

/-! ### ENCODE -/

/-- R67 and R68: a successful ENCODE drives the codeword of R68 and `reject_out` = 0; nothing outside ENC changes.
Every nibble, from every state. -/
def Obligations.EncodeNextState : Prop :=
  ∀ (d : Nibble) (s : State), exec (.encode d) s = .next
    { s with enc := { dataIn := 0#4 ++ d, settled := true, reject := 0#1, steps := some (stepsFor d)
                      codewordOut := codewordFor d, rejectOut := 0#1 } }

/-- R63 to R66: the working byte, the three parities and the three insertions, each as its rule says, and the remarks the
rules make on them: which bits are 0, that each OR writes one bit and no other, that C0C2's parity is the working byte's,
that R0's parity over the working byte is d0, and that only `p_r0` makes R0 consistent. -/
def Obligations.EncodeStepsFollowTheRules : Prop :=
  ∀ (d : Nibble) (s : State), ∃ t st, exec (.encode d) s = .next t ∧ t.enc.steps = some st ∧
    -- R63
    st.w0 = 0#1 ++ 0#1 ++ bit d 3 ++ 0#1 ++ bit d 2 ++ 0#1 ++ bit d 1 ++ bit d 0 ∧
    (∀ i, i ∈ [2, 4, 6, 7] → st.w0.getLsbD i = false) ∧
    -- R64
    st.pC0c1 = parity st.w0 .c0c1 ∧ st.pC0c1 = bit d 0 ^^^ bit d 1 ^^^ bit d 2 ∧
    st.w1 = st.w0 ||| (st.pC0c1.setWidth 8 <<< 2) ∧ bit st.w1 2 = st.pC0c1 ∧
    (∀ i, i ≠ 2 → st.w1.getLsbD i = st.w0.getLsbD i) ∧
    -- R65
    st.pC0c2 = parity st.w1 .c0c2 ∧ st.pC0c2 = bit d 0 ^^^ bit d 1 ^^^ bit d 3 ∧
    st.w2 = st.w1 ||| (st.pC0c2.setWidth 8 <<< 4) ∧ parity st.w1 .c0c2 = parity st.w0 .c0c2 ∧
    -- R66
    st.pR0 = parity st.w2 .r0 ∧ st.pR0 = bit d 0 ^^^ bit d 2 ^^^ bit d 3 ∧
    st.w3 = st.w2 ||| (st.pR0.setWidth 8 <<< 6) ∧ parity st.w0 .r0 = bit d 0 ∧
    (∀ p : Bit, parity (st.w2 ||| (p.setWidth 8 <<< 6)) .r0 = 0#1 ↔ p = st.pR0)

/-- The next state of a rejected input (40_encode.md section 2; 60_exceptions.md section 1): `reject_out` = 1 and
`codeword_out` = 0x00, for every byte with bits 7:4 set, whatever its low nibble; nothing outside ENC changes, and the machine
goes on. That the encoding steps then have no value, `steps := none`, is read from R63 and R92 (DEDUCED, assumption log 8). -/
def Obligations.RejectedInputNextState : Prop :=
  ∀ (z d : Nibble) (s : State), z ≠ 0#4 → exec (.encodeReject z d) s = .next
    { s with enc := { dataIn := z ++ d, settled := true, reject := 1#1, steps := none
                      codewordOut := 0x00#8, rejectOut := 1#1 } }

/-- R62: when any of `data_in[7:4]` is 1, and only then, `reject` is 1; ENCODE then drives `reject_out` = 1 and
`codeword_out` = 0x00 and the failure the host reads is NotRepresentable. Every byte that can stand on `data_in`. -/
def Obligations.RejectedBytesReportNotRepresentable : Prop :=
  ∀ (b : Byte) (s : State), ∃ t, exec (decode ⟨.enc, b⟩) s = .next t ∧ t.enc.dataIn = b ∧
    (t.enc.reject = 1#1 ↔ ∃ i, 4 ≤ i ∧ i ≤ 7 ∧ b.getLsbD i = true) ∧
    (t.enc.reject = 1#1 → t.enc.rejectOut = 1#1 ∧ t.enc.codewordOut = 0x00#8 ∧
      t.enc.sample.map codewordOf = .ok (.error .notRepresentable))

/-- R70: the five properties of every codeword ENCODE produces. -/
def Obligations.EncodeCodewordProperties : Prop :=
  ∀ (d : Nibble) (s : State), ∃ t, exec (.encode d) s = .next t ∧
    t.enc.codewordOut.getLsbD 7 = false ∧
    (∀ g, parity t.enc.codewordOut g = 0#1) ∧
    (∃ u, exec (.verify t.enc.codewordOut) t = .next u ∧ u.dec.locationOut = 255#8) ∧
    bit t.enc.codewordOut 0 = bit d 0 ∧ bit t.enc.codewordOut 1 = bit d 1 ∧
    bit t.enc.codewordOut 3 = bit d 2 ∧ bit t.enc.codewordOut 5 = bit d 3 ∧
    t.enc.codewordOut &&& 0x2B#8 = workingByteFor d ∧
    (∀ d' t', exec (.encode d') s = .next t' → t'.enc.codewordOut = t.enc.codewordOut → d' = d) ∧
    bit t.enc.codewordOut 2 = bit d 0 ^^^ bit d 1 ^^^ bit d 2 ∧
    bit t.enc.codewordOut 4 = bit d 0 ^^^ bit d 1 ^^^ bit d 3 ∧
    bit t.enc.codewordOut 6 = bit d 0 ^^^ bit d 2 ^^^ bit d 3

/-- The nine rows of ENCODE's corner-case table (40_encode.md section 3), from any state. What that section says of every
rejected byte is `RejectedBytesReportNotRepresentable`. -/
def Obligations.EncodeCornerCases : Prop :=
  ∀ (s : State) (b c : Byte) (r : Bit),
    (b, c, r) ∈ ([(0x00#8, 0x00#8, 0#1), (0x0F#8, 0x7F#8, 0#1), (0x01#8, 0x55#8, 0#1), (0x0E#8, 0x2A#8, 0#1),
      (0x10#8, 0x00#8, 1#1), (0x80#8, 0x00#8, 1#1), (0xF0#8, 0x00#8, 1#1), (0xFF#8, 0x00#8, 1#1),
      (0x1A#8, 0x00#8, 1#1)] : List (Byte × Byte × Bit)) →
    ∃ t, exec (decode ⟨.enc, b⟩) s = .next t ∧ t.enc.codewordOut = c ∧ t.enc.rejectOut = r

/-- R48: bit 7 of `codeword_out` is 0, whether the input is encoded or rejected, and `codeword_out` is 0x00 when it is
rejected. -/
def Obligations.CodewordBitSevenIsZero : Prop :=
  ∀ (b : Byte) (s : State), ∃ t, exec (decode ⟨.enc, b⟩) s = .next t ∧ t.enc.codewordOut.getLsbD 7 = false ∧
    (t.enc.rejectOut = 1#1 → t.enc.codewordOut = 0x00#8)

/-- R58: the valid codewords are exactly ENCODE's outputs over the legal inputs, there are 16 of them, and any two differ in
at least 3 positions. -/
def Obligations.ValidCodewordsAreEncodeImage : Prop :=
  (∀ (s : State) (c : Byte), ValidCodeword c ↔ ∃ d t, exec (.encode d) s = .next t ∧ t.enc.codewordOut = c) ∧
  (∃ l : List Byte, l.Nodup ∧ l.length = 16 ∧ ∀ c, c ∈ l ↔ ValidCodeword c) ∧
  (∀ a b : Byte, ValidCodeword a → ValidCodeword b → a ≠ b → 3 ≤ distance a b)

/-! ### Flags and constants -/

/-- R11: a group's parity is 1 if the number of set bits among its members is odd, else 0; hence it is the XOR of the bits
at its members, and 0 exactly when that XOR is. The members are those of R24. -/
def Obligations.ParityIsOddCount : Prop :=
  ∀ (v : Byte) (g : ParityGroup),
    (parity v g = if (g.members.filter fun i => v.getLsbD i).length % 2 = 1 then 1#1 else 0#1) ∧
    parity v .r0 = xorFour v 6 4 2 0 ∧ parity v .c0c1 = xorFour v 3 2 1 0 ∧ parity v .c0c2 = xorFour v 5 4 1 0

/-- R12: a group is consistent when its parity is 0, and its even flag is the negated parity: 1 if the group's bit count
was even (consistent), 0 if odd. -/
def Obligations.EvenFlagIsEvenCount : Prop :=
  ∀ (v : Byte) (g : ParityGroup), evenFlag v g = ~~~ parity v g ∧ (evenFlag v g = 1#1 ↔ parity v g = 0#1) ∧
    evenFlag v g = if (g.members.filter fun i => v.getLsbD i).length % 2 = 0 then 1#1 else 0#1

/-- R24: the members of the three groups, that each mask has exactly its group's bits, the reserved slots, and that bit 7 is
in no group. -/
def Obligations.ParityGroupsAndMasks : Prop :=
  (∀ i, i ∈ ParityGroup.members .r0 ↔ i = 6 ∨ i = 4 ∨ i = 2 ∨ i = 0) ∧
  (∀ i, i ∈ ParityGroup.members .c0c1 ↔ i = 3 ∨ i = 2 ∨ i = 1 ∨ i = 0) ∧
  (∀ i, i ∈ ParityGroup.members .c0c2 ↔ i = 5 ∨ i = 4 ∨ i = 1 ∨ i = 0) ∧
  (∀ (g : ParityGroup) (i : Nat), g.mask.getLsbD i = true ↔ i ∈ g.members) ∧
  ParityGroup.mask .r0 = 0x55#8 ∧ ParityGroup.mask .c0c1 = 0x0F#8 ∧ ParityGroup.mask .c0c2 = 0x33#8 ∧
  ParityGroup.slot .r0 = 6 ∧ ParityGroup.slot .c0c1 = 2 ∧ ParityGroup.slot .c0c2 = 4 ∧
  (∀ g : ParityGroup, 7 ∉ g.members)

/-! ### VERIFY -/

/-- R75 to R77: the even flags, the syndrome and the decision table's entry on `location_out`; VERIFY never fails, does not
change its input, and nothing outside DEC changes. Every byte, from every state. -/
def Obligations.VerifyNextState : Prop :=
  ∀ (c : Byte) (s : State),
    let q0 := bit c 6 ^^^ bit c 4 ^^^ bit c 2 ^^^ bit c 0
    let q1 := bit c 3 ^^^ bit c 2 ^^^ bit c 1 ^^^ bit c 0
    let q2 := bit c 5 ^^^ bit c 4 ^^^ bit c 1 ^^^ bit c 0
    let syn : BitVec 3 := ~~~ q0 ++ ~~~ q1 ++ ~~~ q2
    exec (.verify c) s = .next
      { s with dec := { codewordIn := c, settled := true, qR0 := q0, qC0c1 := q1, qC0c2 := q2
                        evenR0 := ~~~ q0, evenC0c1 := ~~~ q1, evenC0c2 := ~~~ q2, syn := syn
                        locationOut := if syn = 0#3 then 0#8 else if syn = 1#3 then 2#8 else if syn = 2#3 then 4#8
                          else if syn = 3#3 then 6#8 else if syn = 4#3 then 1#8 else if syn = 5#3 then 3#8
                          else if syn = 6#3 then 5#8 else 255#8 } }

/-- R79: both closed forms of VERIFY, for all 256 inputs, and the pattern the first one shows: R0 holds the positions whose
index has bit 0 clear, C0C2 those with bit 1 clear, C0C1 those with bit 2 clear. -/
def Obligations.VerifyClosedForms : Prop :=
  (∀ i, i < 8 → (i ∈ ParityGroup.members .r0 ↔ i.testBit 0 = false) ∧
    (i ∈ ParityGroup.members .c0c2 ↔ i.testBit 1 = false) ∧ (i ∈ ParityGroup.members .c0c1 ↔ i.testBit 2 = false)) ∧
  ∀ (c : Byte) (s : State), ∃ t, exec (.verify c) s = .next t ∧
    (let k : BitVec 3 := t.dec.evenC0c1 ++ t.dec.evenC0c2 ++ t.dec.evenR0
     t.dec.locationOut = if k = 7#3 then 255#8 else k.setWidth 8) ∧
    (let f := (List.range 8).foldl (fun f i => if c.getLsbD i then f ^^^ (7 ^^^ i) else f) 0
     t.dec.locationOut = if f = 0 then 255#8 else BitVec.ofNat 8 (7 ^^^ f))

/-- R80: a valid codeword verifies as the sentinel, a flip of bit p of 0 to 6 is located at p, and a flip of bit 7 verifies as
the sentinel. -/
def Obligations.SingleErrorIsLocated : Prop :=
  ∀ (s : State) (c : Byte), ValidCodeword c →
    (∃ t, exec (.verify c) s = .next t ∧ t.dec.locationOut = 255#8) ∧
    (∀ p, p < 7 → ∃ t, exec (.verify (c ^^^ oneAt p)) s = .next t ∧ t.dec.locationOut = BitVec.ofNat 8 p) ∧
    (∃ t, exec (.verify (c ^^^ 0x80#8)) s = .next t ∧ t.dec.locationOut = 255#8)

/-- The document's use of the block (R16, R80): encode a nibble, flip one bit, verify; the flipped position comes back, or
the sentinel if nothing or bit 7 was flipped. The two operations run one after the other on one machine. -/
def Obligations.EncodeFlipVerifyLocates : Prop :=
  ∀ (d : Nibble) (s : State), ∃ t, exec (.encode d) s = .next t ∧
    (∃ u, exec (.verify t.enc.codewordOut) t = .next u ∧ u.dec.locationOut = 255#8 ∧ u.enc = t.enc) ∧
    (∀ p, p < 8 → ∃ u, exec (.verify (t.enc.codewordOut ^^^ oneAt p)) t = .next u ∧
      u.dec.locationOut = (if p = 7 then 255#8 else BitVec.ofNat 8 p) ∧ u.enc = t.enc)

/-- R81: `location_out` never depends on `codeword_in[7]`. -/
def Obligations.BitSevenBlindSpot : Prop :=
  ∀ (c : Byte) (s : State), ∃ t t', exec (.verify c) s = .next t ∧ exec (.verify (c ^^^ 0x80#8)) s = .next t' ∧
    t.dec.locationOut = t'.dec.locationOut ∧
    (ValidCodeword c → t'.dec.locationOut = 255#8)

/-- Several flipped bits of a valid codeword (41_verify.md section 3, the list of R82). The output depends on the error
pattern alone; two flips give `7 ^ p ^ q`, or the other position if one is bit 7; three flips give `p ^ q ^ r`, or 255
when that is 7. -/
def Obligations.SeveralFlipsAreMislocatedAsStated : Prop :=
  ∀ (s : State) (c : Byte), ValidCodeword c →
    (∀ c' e, ValidCodeword c' → ∃ t t', exec (.verify (c ^^^ e)) s = .next t ∧ exec (.verify (c' ^^^ e)) s = .next t' ∧
      t.dec.locationOut = t'.dec.locationOut) ∧
    (∀ p q, p < 7 → q < 7 → p ≠ q → ∃ t, exec (.verify (c ^^^ oneAt p ^^^ oneAt q)) s = .next t ∧
      t.dec.locationOut = BitVec.ofNat 8 (7 ^^^ p ^^^ q) ∧ t.dec.locationOut ≠ 255#8 ∧
      t.dec.locationOut ≠ BitVec.ofNat 8 p ∧ t.dec.locationOut ≠ BitVec.ofNat 8 q) ∧
    (∀ q, q < 7 → ∃ t, exec (.verify (c ^^^ oneAt 7 ^^^ oneAt q)) s = .next t ∧
      t.dec.locationOut = BitVec.ofNat 8 q) ∧
    (∀ p q r, p < 7 → q < 7 → r < 7 → p ≠ q → p ≠ r → q ≠ r →
      ∃ t, exec (.verify (c ^^^ oneAt p ^^^ oneAt q ^^^ oneAt r)) s = .next t ∧
        t.dec.locationOut = if p ^^^ q ^^^ r = 7 then 255#8 else BitVec.ofNat 8 (p ^^^ q ^^^ r)) ∧
    (0x00#8 ^^^ oneAt 1 ^^^ oneAt 2 ^^^ oneAt 4 = 0x16#8 ∧ codewordFor 2#4 = 0x16#8)

/-- R83: each of the eight output values is produced for exactly 32 of the 256 input bytes. -/
def Obligations.EachLocationFromThirtyTwoBytes : Prop :=
  ∀ (v : Byte) (d : Dec), v ∈ [0#8, 1#8, 2#8, 3#8, 4#8, 5#8, 6#8, 255#8] →
    ((List.range 256).filter fun n => (d.evaluate (BitVec.ofNat 8 n)).locationOut == v).length = 32

/-- The rows of VERIFY's corner-case table (41_verify.md section 3), from any state. -/
def Obligations.VerifyCornerCases : Prop :=
  ∀ (s : State) (c l : Byte),
    (c, l) ∈ ([(0x00#8, 255#8), (0x80#8, 255#8), (0xFF#8, 255#8), (0x01#8, 0#8), (0x40#8, 6#8), (0x0C#8, 6#8),
      (0x03#8, 6#8), (0x16#8, 255#8)] : List (Byte × Byte)) →
    ∃ t, exec (.verify c) s = .next t ∧ t.dec.locationOut = l

/-- R50: DEC drives one of the eight values 0 to 6 and 255; never 7, nor any of 8 to 254. -/
def Obligations.LocationIsOneOfEight : Prop :=
  ∀ (c : Byte) (s : State), ∃ t, exec (.verify c) s = .next t ∧
    (t.dec.locationOut.toNat ≤ 6 ∨ t.dec.locationOut = 255#8)

/-- R108: 255 on `location_out` is no proof that no bit was corrupted: for every valid codeword, a change of bit 7 alone and
some change of three bits also give 255. -/
def Obligations.SentinelIsNoProofOfIntegrity : Prop :=
  ∀ (s : State) (c : Byte), ValidCodeword c →
    (∃ t, exec (.verify (c ^^^ 0x80#8)) s = .next t ∧ t.dec.locationOut = 255#8) ∧
    (∃ e : Byte, distance c (c ^^^ e) = 3 ∧ e.getLsbD 7 = false ∧
      ∃ t, exec (.verify (c ^^^ e)) s = .next t ∧ t.dec.locationOut = 255#8)

/-! ### The one exception -/

/-- R86 and R87: VERIFY raises no exception for any of the 256 inputs, and ENCODE raises NotRepresentable exactly for the
bytes with bits 7:4 set, and nothing else. -/
def Obligations.OnlyExceptionIsNotRepresentable : Prop :=
  ∀ s : State,
    (∀ c : Byte, ∃ t, exec (.verify c) s = .next t ∧ t.enc = s.enc ∧ t.dec.sample = .ok (locationFor c)) ∧
    (∀ b : Byte, ∃ t, exec (decode ⟨.enc, b⟩) s = .next t ∧
      t.enc.sample.map codewordOf =
        .ok (if b.toNat < 16 then .ok (codewordFor (b.setWidth 4)) else .error .notRepresentable))

/-- Recovery from a rejection (60_exceptions.md section 1) is the host's next legal input, whose outputs bear no trace of
the rejection. -/
def Obligations.RejectionLeavesNoTrace : Prop :=
  ∀ (z d d' : Nibble) (s : State), z ≠ 0#4 →
    ∃ t, exec (.encodeReject z d) s = .next t ∧ t.enc.rejectOut = 1#1 ∧
      ∃ u, exec (.encode d') t = .next u ∧ exec (.encode d') s = .next u ∧ u.enc.rejectOut = 0#1

/-- R106: `codeword_out` is of use only when `reject_out` = 0: while an input is rejected it shows 0x00, which is also
ENCODE 0x00, so that only `reject_out` tells the two apart. -/
def Obligations.RejectedCodewordLooksLikeNibbleZero : Prop :=
  ∀ (z d : Nibble) (s : State), z ≠ 0#4 →
    ∃ t u, exec (.encodeReject z d) s = .next t ∧ exec (.encode 0#4) s = .next u ∧
      t.enc.codewordOut = 0x00#8 ∧ u.enc.codewordOut = t.enc.codewordOut ∧
      t.enc.rejectOut = 1#1 ∧ u.enc.rejectOut = 0#1 ∧
      t.enc.sample.map codewordOf = .ok (.error .notRepresentable) ∧ u.enc.sample.map codewordOf = .ok (.ok 0x00#8)

/-! ### The whole machine -/

/-- Both units are combinational (10_state.md section 1), as an invariant: from every state in which each settled unit
shows its function of its input, every step leads to such a state. -/
def Obligations.StepKeepsUnitsCoherent : Prop :=
  ∀ s t : State, Coherent s → step s = .next t → Coherent t

/-- The reset state meets the invariant. What its fields hold is the model's choice (DESIGN CHOICE, assumption log 3); no
unit is settled in it. -/
def Obligations.ResetIsCoherent : Prop := Coherent State.reset ∧
  State.reset.enc.settled = false ∧ State.reset.dec.settled = false

/-- A step runs the operation that the host's next input stands for, from the state with that input taken off the queue
(the queue is the model's, DESIGN CHOICE, assumption log 1). -/
def Obligations.StepRunsDecodedInput : Prop :=
  ∀ (s : State) (i : Instr) (rest : List Drive), i.wellFormed = true → s.pending = i.drive :: rest →
    step s = exec i { s with pending := rest }

/-- A step runs exactly the operation of a table word put in front of the queue. -/
def Obligations.StepRunsTableWord : Prop :=
  ∀ (s : State) (nbits w : Nat) (i : Instr), decodeTableWord nbits w = some i →
    step (s.withFetchWord nbits w) = exec i s

/-- The units never act on their own (10_state.md section 1): with no input to come, a step changes nothing, and the
outputs stay as they are (R103). -/
def Obligations.UnitsNeverActAlone : Prop :=
  ∀ (s : State) (n : Nat), s.pending = [] → Host.Core.run Sys2Proof.core n s = .next s

/-- The block is total (60_exceptions.md section 1): every step answers a next state, from every state, and takes at most
one input off the queue. -/
def Obligations.EveryStepCompletes : Prop :=
  ∀ s : State, ∃ t, step s = .next t ∧ t.pending = s.pending.tail

/-- What each operation leaves unchanged (20_memory.md section 1, no side effect): the other unit and the queue; and the
same input again changes nothing (idempotence). -/
def Obligations.OperationsHaveNoSideEffect : Prop :=
  ∀ (s : State) (z d : Nibble) (c : Byte), ∃ t u v,
    (exec (.encode d) s = .next t ∧ t.dec = s.dec ∧ t.pending = s.pending ∧ t.enc.dataIn = 0#4 ++ d ∧
      exec (.encode d) t = .next t) ∧
    (exec (.encodeReject z d) s = .next u ∧ u.dec = s.dec ∧ u.pending = s.pending ∧ u.enc.dataIn = z ++ d ∧
      exec (.encodeReject z d) u = .next u) ∧
    (exec (.verify c) s = .next v ∧ v.enc = s.enc ∧ v.pending = s.pending ∧ v.dec.codewordIn = c ∧
      exec (.verify c) v = .next v)

/-- The outputs of an evaluation depend on its input alone, never on earlier inputs (10_state.md section 2, rule R22): the
unit that evaluates ends the same from any two states. -/
def Obligations.OutputsForgetEarlierInputs : Prop :=
  ∀ (s s' : State) (b : Byte), ∃ t t' u u',
    exec (decode ⟨.enc, b⟩) s = .next t ∧ exec (decode ⟨.enc, b⟩) s' = .next t' ∧ t.enc = t'.enc ∧
    exec (decode ⟨.dec, b⟩) s = .next u ∧ exec (decode ⟨.dec, b⟩) s' = .next u' ∧ u.dec = u'.dec

/-- Evaluations of the two units in either order lead to the same state (20_memory.md section 3). -/
def Obligations.EncAndDecEvaluationsCommute : Prop :=
  ∀ (s : State) (b c : Byte), ∃ t u v,
    exec (decode ⟨.enc, b⟩) s = .next t ∧ exec (.verify c) t = .next v ∧
    exec (.verify c) s = .next u ∧ exec (decode ⟨.enc, b⟩) u = .next v ∧
    v.enc = encFor b ∧ v.dec = decFor c ∧ v.pending = s.pending

/-- No path joins ENC to DEC inside the block (70_reset_and_hazards.md section 3): two machines that differ in one unit only
still agree in the other one after a step. -/
def Obligations.NoPathBetweenTheUnits : Prop :=
  ∀ s s' : State, s.pending = s'.pending → ∃ t t', step s = .next t ∧ step s' = .next t' ∧
    (s.dec = s'.dec → t.dec = t'.dec) ∧ (s.enc = s'.enc → t.enc = t'.enc)

/-- A run over all the host's inputs: whatever the inputs are and in whatever state it starts, each unit ends settled on the
last byte the host drove on it, with that byte's outputs, and a unit the host did not drive is as it was. The queue it runs
over is the model's (DESIGN CHOICE, assumption log 1). -/
def Obligations.RunSettlesEachUnitOnItsLastInput : Prop :=
  ∀ (s : State) (n : Nat), s.pending.length ≤ n →
    Host.Core.run Sys2Proof.core n s = .next (
      { enc := ((lastFor .enc s.pending).map encFor).getD s.enc
        dec := ((lastFor .dec s.pending).map decFor).getD s.dec
        pending := [] } : State)

/-! ### Reset and timing -/

/-- After power-up and before a unit's input has been driven to a defined byte and held, the model has no observation of its
outputs (70_reset_and_hazards.md section 1); after one evaluation it has, and they are the input's. -/
def Obligations.NothingIsObservableBeforeTheFirstInput : Prop :=
  State.reset.enc.sample = .error (.outputsNotSettled .enc) ∧
  State.reset.dec.sample = .error (.outputsNotSettled .dec) ∧
  (∀ b : Byte, ∃ t, exec (decode ⟨.enc, b⟩) State.reset = .next t ∧
    t.enc.sample = .ok ((encFor b).codewordOut, (encFor b).rejectOut) ∧ t.dec.sample = .error (.outputsNotSettled .dec)) ∧
  (∀ c : Byte, ∃ t, exec (.verify c) State.reset = .next t ∧
    t.dec.sample = .ok (locationFor c) ∧ t.enc.sample = .error (.outputsNotSettled .enc))

/-- When a unit can be sampled (70_reset_and_hazards.md section 3): a unit whose input is held for its propagation delay
shows its function of that input; a sample taken earlier, on an input that is new or has not settled, is no observation.
For every value of the two delays. That such a sample is refused by name is the model's form (DESIGN CHOICE, assumption log 4),
and that a hold shorter than the delay never settles a unit, even one on which the same byte already stands, is the model's
choice (two holds of one byte do not add up: DESIGN CHOICE, assumption log 5). -/
def Obligations.SamplingNeedsAStableInput : Prop :=
  (∀ (T : Config.Delays) (b : Byte) (t : Nat) (e : Enc), T.tPdEnc ≤ t →
    (e.driveFor T b t).sample = .ok ((encFor b).codewordOut, (encFor b).rejectOut)) ∧
  (∀ (T : Config.Delays) (b : Byte) (t : Nat) (e : Enc), t < T.tPdEnc → (b ≠ e.dataIn ∨ e.settled = false) →
    (e.driveFor T b t).sample = .error (.outputsNotSettled .enc)) ∧
  (∀ (T : Config.Delays) (c : Byte) (t : Nat) (d : Dec), T.tPdDec ≤ t → (d.driveFor T c t).sample = .ok (locationFor c)) ∧
  (∀ (T : Config.Delays) (c : Byte) (t : Nat) (d : Dec), t < T.tPdDec → (c ≠ d.codewordIn ∨ d.settled = false) →
    (d.driveFor T c t).sample = .error (.outputsNotSettled .dec))

/-- No later event changes the outputs while the input stays the same (70_reset_and_hazards.md section 2): a settled unit
held on its own input, for any time, is as it was. That driving the byte already on the port is no change of the input is
read from R103 (DEDUCED, assumption log 5). -/
def Obligations.HoldingTheInputKeepsTheOutputs : Prop :=
  (∀ (T : Config.Delays) (t : Nat) (e : Enc), EncCoherent e → e.settled = true → e.driveFor T e.dataIn t = e) ∧
  (∀ (T : Config.Delays) (t : Nat) (d : Dec), DecCoherent d → d.settled = true → d.driveFor T d.codewordIn t = d)

/-! ### Several instances -/

/-- Any number of instances may exist, and each evaluation gets the outputs that its own input determines (60_exceptions.md
section 3; 20_memory.md section 3): whatever evaluations of whatever instances came before. The fleet, two lists in which
an instance is named by its place, is the model's form (assumption log 7). -/
def Obligations.FleetOutputsDependOnOwnInput : Prop :=
  ∀ (es : List Evaluation) (F : Fleet), (∀ e ∈ es, F.hasTarget e = true) →
    Fleet.outputs es F = es.map fun e => some (.ok (outputFor e.unit e.byte))

/-- No ordering between evaluations of different instances can be observed (20_memory.md section 3): any order of them leaves
the same fleet. That evaluations at once are the same evaluations one after the other, in any order, is the model's choice
(DESIGN CHOICE, assumption log 7). -/
def Obligations.FleetOrderCannotBeObserved : Prop :=
  ∀ (es es' : List Evaluation) (F : Fleet), es.Perm es' → (es.map Evaluation.target).Nodup →
    F.run es = F.run es'

/-- Instances share no state and cannot signal each other (60_exceptions.md section 3): an evaluation of one leaves what every
other one shows, and settles the one it drives. The fleet is the model's form (assumption log 7). -/
def Obligations.InstancesShareNothing : Prop :=
  ∀ (e : Evaluation) (F : Fleet) (target : UnitName × Nat),
    (target ≠ e.target → (F.evaluate e).sample target = F.sample target) ∧
    (F.hasTarget e = true → (F.evaluate e).sample e.target = some (.ok (outputFor e.unit e.byte)))

/-! ### Host programs -/

/-- The two forms of 30_encoding.md section 4 that use the block, with an immediate or a written variable: ENCODE writes `vD`
with `codeword_out` and `rej` with `reject_out`, VERIFY writes `vD` with `location_out`; the host goes on at the next line,
and nothing else of it changes. -/
def Obligations.DriverBlockOperations : Prop :=
  ∀ (prog : List DriverOp) (D : Driver) (vD : Var) (src : Source) (b : Byte),
    D.halted = false → (src = .imm b ∨ ∃ v, src = .var v ∧ D.vars[v] = some b) →
    (prog[D.line]? = some (.encode vD src) → D.step prog = .next
      { D with vars := D.vars.set vD (some (encFor b).codewordOut), rej := some (encFor b).rejectOut
               line := D.line + 1, block := { D.block with enc := encFor b } }) ∧
    (prog[D.line]? = some (.verify vD src) → D.step prog = .next
      { D with vars := D.vars.set vD (some (locationFor b))
               line := D.line + 1, block := { D.block with dec := decFor b } })

/-- The host pseudo-ops of 30_encoding.md section 4 that write a variable: none of them touches the block, `rej` or another
variable. Each form needs only the operands it reads to hold a value, so `MOV vD, #imm8` needs none. -/
def Obligations.DriverDataPseudoOperations : Prop :=
  ∀ (prog : List DriverOp) (D : Driver) (vD vS vK : Var) (a k imm : Byte) (i : BitVec 3), D.halted = false →
    let next := fun (x : Byte) => (.next { D with vars := D.vars.set vD (some x), line := D.line + 1 } :
      Host.Outcome Driver Fault Refusal)
    (prog[D.line]? = some (.mov vD (.imm imm)) → D.step prog = next imm) ∧
    (prog[D.line]? = some (.mov vD (.var vS)) → D.vars[vS] = some a → D.step prog = next a) ∧
    (prog[D.line]? = some (.flip vD vS (.imm i)) → D.vars[vS] = some a → D.step prog = next (a ^^^ oneAt i.toNat)) ∧
    (prog[D.line]? = some (.flip vD vS (.var vK)) → D.vars[vS] = some a → D.vars[vK] = some k →
      D.step prog = next (a ^^^ oneAt (k.toNat % 8))) ∧
    (prog[D.line]? = some (.and vD vS imm) → D.vars[vS] = some a → D.step prog = next (a &&& imm)) ∧
    (prog[D.line]? = some (.xor vD vS (.imm imm)) → D.vars[vS] = some a → D.step prog = next (a ^^^ imm)) ∧
    (prog[D.line]? = some (.xor vD vS (.var vK)) → D.vars[vS] = some a → D.vars[vK] = some k →
      D.step prog = next (a ^^^ k)) ∧
    (prog[D.line]? = some (.add vD vS imm) → D.vars[vS] = some a →
      D.step prog = next (BitVec.ofNat 8 ((a.toNat + imm.toNat) % 256)))

/-- The host's branches and HALT of 30_encoding.md section 4: they change only where the host goes on. Each form needs only
what it reads to hold a value: `B` and `HALT` nothing, `BNE` and `BEQ` their variable, `BREJ` only `rej`. That a label is a
line number is the model's choice (assumption log 6). -/
def Obligations.DriverBranches : Prop :=
  ∀ (prog : List DriverOp) (D : Driver) (vA : Var) (a imm : Byte) (r : Bit) (label : Nat), D.halted = false →
    (prog[D.line]? = some (.b label) → D.step prog = .next { D with line := label }) ∧
    (prog[D.line]? = some (.bne vA imm label) → D.vars[vA] = some a →
      D.step prog = .next { D with line := if a = imm then D.line + 1 else label }) ∧
    (prog[D.line]? = some (.beq vA imm label) → D.vars[vA] = some a →
      D.step prog = .next { D with line := if a = imm then label else D.line + 1 }) ∧
    (prog[D.line]? = some (.brej label) → D.rej = some r →
      D.step prog = .next { D with line := if r = 1#1 then label else D.line + 1 }) ∧
    (prog[D.line]? = some .halt → D.step prog = .next { D with halted := true } ∧
      Driver.step prog { D with halted := true } = .next { D with halted := true })

/-- A host variable or `rej` that has not been written holds no value (30_encoding.md section 4). A line stops only because it
reads one, or because there is no such line, and the block never stops it; and every form that reads an unwritten variable
or an unwritten `rej`, and every missing line, does stop, by name. That it stops, and that the operand written first in the
form is the one named, is the model's choice (DESIGN CHOICE, assumption log 6). -/
def Obligations.DriverStopsOnlyOnUnwritten : Prop :=
  ∀ (prog : List DriverOp) (D : Driver), D.halted = false →
    (∀ f, D.step prog = .fault f → (∃ v, f = .unwrittenVariable v ∧ D.vars[v] = none) ∨
      (f = .unwrittenRej ∧ D.rej = none) ∨ (f = .noSuchLine D.line ∧ prog[D.line]? = none)) ∧
    (∀ r, D.step prog ≠ .refused r) ∧
    -- the first variable a form reads
    (∀ (vD vS : Var) (k : FlipPosition) (src : Source) (imm : Byte) (label : Nat) (op : DriverOp),
      D.vars[vS] = none → prog[D.line]? = some op →
      op ∈ [.encode vD (.var vS), .verify vD (.var vS), .flip vD vS k, .mov vD (.var vS), .and vD vS imm, .xor vD vS src,
        .add vD vS imm, .bne vS imm label, .beq vS imm label] →
      D.step prog = .fault (.unwrittenVariable vS)) ∧
    -- the second variable of FLIP and XOR
    (∀ (vD vS vK : Var) (a : Byte) (op : DriverOp), D.vars[vS] = some a → D.vars[vK] = none → prog[D.line]? = some op →
      op ∈ [.flip vD vS (.var vK), .xor vD vS (.var vK)] → D.step prog = .fault (.unwrittenVariable vK)) ∧
    (∀ label, D.rej = none → prog[D.line]? = some (.brej label) → D.step prog = .fault .unwrittenRej) ∧
    (prog[D.line]? = none → D.step prog = .fault (.noSuchLine D.line))
end

