-- ==== Sys2Proof/Laws/State.lean ====
section
/-! SUPPORT. What each update of a record does to each field: one lemma per field per update, true by unfolding. -/

namespace Sys2Proof.Machine

@[simp] theorem Enc.drive_dataIn (b : Byte) (e : Enc) : (e.drive b).dataIn = b := rfl
@[simp] theorem Enc.drive_settled (b : Byte) (e : Enc) : (e.drive b).settled = (e.settled && b == e.dataIn) := rfl
@[simp] theorem Enc.drive_reject (b : Byte) (e : Enc) : (e.drive b).reject = e.reject := rfl
@[simp] theorem Enc.drive_steps (b : Byte) (e : Enc) : (e.drive b).steps = e.steps := rfl
@[simp] theorem Enc.drive_codewordOut (b : Byte) (e : Enc) : (e.drive b).codewordOut = e.codewordOut := rfl
@[simp] theorem Enc.drive_rejectOut (b : Byte) (e : Enc) : (e.drive b).rejectOut = e.rejectOut := rfl

@[simp] theorem Enc.report_dataIn (e : Enc) : e.reportNotRepresentable.dataIn = e.dataIn := rfl
@[simp] theorem Enc.report_settled (e : Enc) : e.reportNotRepresentable.settled = e.settled := rfl
@[simp] theorem Enc.report_reject (e : Enc) : e.reportNotRepresentable.reject = 1#1 := rfl
@[simp] theorem Enc.report_steps (e : Enc) : e.reportNotRepresentable.steps = none := rfl
@[simp] theorem Enc.report_codewordOut (e : Enc) : e.reportNotRepresentable.codewordOut = 0x00#8 := rfl
@[simp] theorem Enc.report_rejectOut (e : Enc) : e.reportNotRepresentable.rejectOut = 1#1 := rfl

@[simp] theorem Enc.deliver_dataIn (st : EncSteps) (e : Enc) : (e.deliver st).dataIn = e.dataIn := rfl
@[simp] theorem Enc.deliver_settled (st : EncSteps) (e : Enc) : (e.deliver st).settled = e.settled := rfl
@[simp] theorem Enc.deliver_reject (st : EncSteps) (e : Enc) : (e.deliver st).reject = 0#1 := rfl
@[simp] theorem Enc.deliver_steps (st : EncSteps) (e : Enc) : (e.deliver st).steps = some st := rfl
@[simp] theorem Enc.deliver_codewordOut (st : EncSteps) (e : Enc) : (e.deliver st).codewordOut = st.w3 := rfl
@[simp] theorem Enc.deliver_rejectOut (st : EncSteps) (e : Enc) : (e.deliver st).rejectOut = 0#1 := rfl

@[simp] theorem Dec.drive_codewordIn (c : Byte) (d : Dec) : (d.drive c).codewordIn = c := rfl
@[simp] theorem Dec.drive_settled (c : Byte) (d : Dec) : (d.drive c).settled = (d.settled && c == d.codewordIn) := rfl
@[simp] theorem Dec.drive_locationOut (c : Byte) (d : Dec) : (d.drive c).locationOut = d.locationOut := rfl

@[simp] theorem State.evaluateEnc_enc (b : Byte) (s : State) : (s.evaluateEnc b).enc = s.enc.evaluate b := rfl
@[simp] theorem State.evaluateEnc_dec (b : Byte) (s : State) : (s.evaluateEnc b).dec = s.dec := rfl
@[simp] theorem State.evaluateEnc_pending (b : Byte) (s : State) : (s.evaluateEnc b).pending = s.pending := rfl
@[simp] theorem State.evaluateDec_enc (c : Byte) (s : State) : (s.evaluateDec c).enc = s.enc := rfl
@[simp] theorem State.evaluateDec_dec (c : Byte) (s : State) : (s.evaluateDec c).dec = s.dec.evaluate c := rfl
@[simp] theorem State.evaluateDec_pending (c : Byte) (s : State) : (s.evaluateDec c).pending = s.pending := rfl
@[simp] theorem State.offer_enc (d : Drive) (s : State) : (s.offer d).enc = s.enc := rfl
@[simp] theorem State.offer_dec (d : Drive) (s : State) : (s.offer d).dec = s.dec := rfl
@[simp] theorem State.offer_pending (d : Drive) (s : State) : (s.offer d).pending = d :: s.pending := rfl

@[simp] theorem Driver.write_vars (v : Var) (b : Byte) (D : Driver) : (D.write v b).vars = D.vars.set v (some b) := rfl
@[simp] theorem Driver.write_rej (v : Var) (b : Byte) (D : Driver) : (D.write v b).rej = D.rej := rfl
@[simp] theorem Driver.write_line (v : Var) (b : Byte) (D : Driver) : (D.write v b).line = D.line + 1 := rfl
@[simp] theorem Driver.write_halted (v : Var) (b : Byte) (D : Driver) : (D.write v b).halted = D.halted := rfl
@[simp] theorem Driver.write_block (v : Var) (b : Byte) (D : Driver) : (D.write v b).block = D.block := rfl

end Sys2Proof.Machine
end

