-- ==== Sys2Proof/Laws/Ops.lean ====
section
/-! SUPPORT. One lemma per shared operation, saying all it can do, and the inversion of one step. -/

namespace Sys2Proof.Machine

/-- ENC settled on a byte that is not rejected: nothing of its earlier values is left. -/
theorem Enc.settle_of_ok {e : Enc} {st : EncSteps} (h : encLogic e.dataIn = .ok st) :
    e.settle = { dataIn := e.dataIn, settled := true, reject := 0#1, steps := some st
                 codewordOut := st.w3, rejectOut := 0#1 } := by
  simp [Enc.settle, h, Enc.deliver, causeCode]

/-- ENC settled on a rejected byte: nothing of its earlier values is left. -/
theorem Enc.settle_of_error {e : Enc} (h : encLogic e.dataIn = .error .notRepresentable) :
    e.settle = { dataIn := e.dataIn, settled := true, reject := 1#1, steps := none
                 codewordOut := 0x00#8, rejectOut := 1#1 } := by
  simp [Enc.settle, h, Enc.reportNotRepresentable, causeCode]

/-- ENC's logic either encodes or fails, as the reject flag says. -/
theorem encLogic_cases (b : Byte) :
    (rejectFlag b = 0#1 ∧ encLogic b = .ok (encSteps b)) ∨
    (rejectFlag b = 1#1 ∧ encLogic b = .error .notRepresentable) := by
  by_cases h : highNibble b = 0#4
  · exact .inl (by simp [encLogic, rejectFlag, h])
  · exact .inr (by simp [encLogic, rejectFlag, h])

/-- All an evaluation of ENC can do, on a byte that is not rejected. -/
theorem Enc.evaluate_of_legal {b : Byte} (h : rejectFlag b = 0#1) (e : Enc) :
    e.evaluate b = { dataIn := b, settled := true, reject := 0#1, steps := some (encSteps b)
                     codewordOut := (encSteps b).w3, rejectOut := 0#1 } :=
  Enc.settle_of_ok (e := e.drive b) (by simp [encLogic, h])

/-- All an evaluation of ENC can do, on a rejected byte. -/
theorem Enc.evaluate_of_rejected {b : Byte} (h : rejectFlag b = 1#1) (e : Enc) :
    e.evaluate b = { dataIn := b, settled := true, reject := 1#1, steps := none
                     codewordOut := 0x00#8, rejectOut := 1#1 } :=
  Enc.settle_of_error (e := e.drive b) (by simp [encLogic, h])

/-- All an evaluation of DEC can do. -/
@[simp] theorem Dec.evaluate_eq_decLogic (c : Byte) (d : Dec) : d.evaluate c = decLogic c := rfl

@[simp] theorem exec_encode (d : Nibble) (s : State) :
    exec (.encode d) s = .next (s.evaluateEnc (dataByte 0#4 d)) := rfl

@[simp] theorem exec_encodeReject (z d : Nibble) (s : State) :
    exec (.encodeReject z d) s = .next (s.evaluateEnc (dataByte z d)) := rfl

@[simp] theorem exec_verify (c : Byte) (s : State) : exec (.verify c) s = .next (s.evaluateDec c) := rfl

/-- The two nibbles of a byte are the byte. -/
theorem dataByte_nibbles (b : Byte) : dataByte (b.extractLsb' 4 4) (b.extractLsb' 0 4) = b := by
  revert b; decide

/-- Running what ENC's input byte stands for is evaluating ENC on that byte, rejected or not. -/
theorem exec_decodeData (b : Byte) (s : State) : exec (decodeData b) s = .next (s.evaluateEnc b) := by
  unfold decodeData
  split
  · next h =>
    have hz : b.extractLsb' 4 4 = 0#4 := by revert b; decide
    rw [exec_encode, ← hz, dataByte_nibbles]
  · rw [exec_encodeReject, dataByte_nibbles]

/-- All a step can do: nothing when the host has no input to come, else one evaluation of one unit. -/
theorem step_cases {s t : State} (h : step s = .next t) :
    (s.pending = [] ∧ t = s) ∨
    (∃ b rest, s.pending = ⟨.enc, b⟩ :: rest ∧ t = State.evaluateEnc b { s with pending := rest }) ∨
    (∃ c rest, s.pending = ⟨.dec, c⟩ :: rest ∧ t = State.evaluateDec c { s with pending := rest }) := by
  unfold step State.takeDrive at h
  split at h
  · next h' =>
    split at h'
    · next hp => exact .inl ⟨hp, by simpa using h.symm⟩
    · cases h'
  · next d s' h' =>
    split at h'
    · cases h'
    · next d rest hp =>
      cases h'
      obtain ⟨u, b⟩ := d
      cases u with
      | enc =>
        refine .inr (.inl ⟨b, rest, hp, ?_⟩)
        have := (exec_decodeData b { s with pending := rest }).symm.trans h
        simpa using this.symm
      | dec =>
        refine .inr (.inr ⟨b, rest, hp, ?_⟩)
        have : Host.Outcome.next (State.evaluateDec b { s with pending := rest }) = .next t := h
        simpa using this.symm

/-- A run whose first step answers a next state goes on from that state. -/
theorem run_succ_of_next {M : Host.Core} {n : Nat} {s t : M.State} (h : M.step s = .next t) :
    M.run (n + 1) s = M.run n t := by
  simp only [Host.Core.run, h]

/-- Sampling answers exactly when the unit has settled. -/
theorem Enc.sample_eq_ok {e : Enc} (h : e.settled = true) : e.sample = .ok (e.codewordOut, e.rejectOut) := by
  simp [Enc.sample, h]

theorem Dec.sample_eq_ok {d : Dec} (h : d.settled = true) : d.sample = .ok d.locationOut := by
  simp [Dec.sample, h]

end Sys2Proof.Machine
end

