-- ==== Sys2Proof/Laws/PerInstr.lean ====
section
/-! SUPPORT. Families of lemmas with one lemma per constructor of `Instr`. -/

namespace Sys2Proof.Laws.WrittenForm

/-- The written form of an operation is two bytes, and it names the operation's own unit and port byte (R51, R54). -/
def Statement (i : Instr) : Prop := driveOfBytes (Sys2Proof.encode i) = .ok i.drive

theorem encode (d : Nibble) : Statement (.encode d) := rfl

theorem encodeReject (z d : Nibble) : Statement (.encodeReject z d) := rfl

theorem verify (c : Byte) : Statement (.verify c) := rfl

end Sys2Proof.Laws.WrittenForm
end

