-- ==== Sys2Proof/Tests/Slice0.lean ====
section
/-! SUPPORT. The model's own tests. Expected values are the spec's: the tables of 95_test_vectors.md and the worked
examples of R69 and R78. Then, for each statement with hypotheses, a state and operands that meet them. -/

namespace Sys2Proof.Tests

open Sys2Proof.Machine Sys2Proof.Safety

/-! ### Well-formedness and decoding -/

/-- The one check of WellFormed.lean refuses a rejected input whose high nibble is 0000 (R53). -/
theorem test_wellFormed_refuses_legal_byte_as_rejected : (Instr.encodeReject 0#4 5#4).wellFormed = false := by decide

/-- R56, row ENCODE `0000 d3 d2 d1 d0`, with d3..d0 = 0101. -/
theorem test_decode_encode : decodeTableWord 8 0b00000101 = some (.encode 0b0101#4) := by decide

/-- R56, row ENCODE.reject `zzzz dddd`, with zzzz = 0001 and dddd = 1010. -/
theorem test_decode_encodeReject : decodeTableWord 8 0b00011010 = some (.encodeReject 0b0001#4 0b1010#4) := by decide

/-- R56, row VERIFY `c7 .. c0` = 0001 1101, under the unit number 1 of DEC. -/
theorem test_decode_verify : decodeTableWord 16 0b0000000100011101 = some (.verify 0b00011101#8) := by decide

/-- Two units exist (R51), and every input is exactly one byte (R54). -/
theorem test_decode_rejects_by_name :
    decodeBytes [0x1D#8, 2#8] = .error (.noSuchUnit 2#8) ∧ decodeBytes [0x1D#8] = .error (.wrongLength 1) := by decide

/-! ### ENCODE and VERIFY on the spec's vectors -/

/-- The outputs of one evaluation of ENC from reset. -/
def encOutputs (b : Byte) : Except Refusal (Byte × Bit) := (Enc.reset.evaluate b).sample

/-- The output of one evaluation of DEC from reset. -/
def decOutput (c : Byte) : Except Refusal Byte := (Dec.reset.evaluate c).sample

/-- 95_test_vectors.md table 2.1, column `codeword_out`. -/
theorem test_encode_table :
    (List.range 16).map (fun n => encOutputs (BitVec.ofNat 8 n)) =
      [0x00#8, 0x55#8, 0x16#8, 0x43#8, 0x4C#8, 0x19#8, 0x5A#8, 0x0F#8,
       0x70#8, 0x25#8, 0x66#8, 0x33#8, 0x3C#8, 0x69#8, 0x2A#8, 0x7F#8].map (fun c => .ok (c, 0#1)) := by decide

/-- R69's worked example: `w0` = 0x09, `p_c0c1` = 0, `p_c0c2` = 1, `p_r0` = 0, codeword 0x19. -/
theorem test_encode_worked_example :
    encSteps 0x05#8 = { w0 := 0x09#8, pC0c1 := 0#1, w1 := 0x09#8, pC0c2 := 1#1, w2 := 0x19#8, pR0 := 0#1, w3 := 0x19#8 } := by
  decide

/-- 95_test_vectors.md table 2.2: every row is rejected with `codeword_out` = 0x00. -/
theorem test_encodeReject_table :
    [0x10#8, 0x20#8, 0x40#8, 0x80#8, 0x1A#8, 0x8F#8, 0xF0#8, 0xFF#8].map encOutputs =
      List.replicate 8 (.ok (0x00#8, 1#1)) := by decide

/-- A rejection from the state left by ENCODE 0x05, through `exec`: nothing of the codeword 0x19 is left (R62, R92). -/
theorem test_encodeReject_after_encode :
    (match exec (.encodeReject 0x1#4 0xA#4) (State.reset.evaluateEnc 0x05#8) with
      | .next t => (t.enc.codewordOut, t.enc.rejectOut, t.enc.steps) == (0x00#8, 1#1, none)
      | _ => false) = true := by decide

/-- 95_test_vectors.md table 2.3, the row `c[6:4]` = 1, and the same with bit 7 set. -/
theorem test_verify_table_row :
    (List.range 16).map (fun n => decOutput (BitVec.ofNat 8 (0x10 + n))) =
      [4#8, 3#8, 2#8, 5#8, 1#8, 6#8, 255#8, 0#8, 0#8, 255#8, 6#8, 1#8, 5#8, 2#8, 3#8, 4#8].map .ok ∧
    (List.range 16).map (fun n => decOutput (BitVec.ofNat 8 (0x90 + n))) =
      (List.range 16).map (fun n => decOutput (BitVec.ofNat 8 (0x10 + n))) := by decide

/-- R78's worked example and 95_test_vectors.md table 2.5: VERIFY 0x1D has parities 1, 1, 0, syn 1, location 2. -/
theorem test_verify_worked_example :
    (match exec (.verify 0x1D#8) State.reset with
      | .next t => (t.dec.qR0, t.dec.qC0c1, t.dec.qC0c2, t.dec.syn, t.dec.locationOut) == (1#1, 1#1, 0#1, 1#3, 2#8)
      | _ => false) = true := by decide

/-- 95_test_vectors.md section 2.7, the two false variants a model must refute: ENCODE 4 is not the byte 0x0C that R0's
parity over the working byte would give, and VERIFY 0x80 is not 6. -/
theorem test_false_variants_refuted :
    encOutputs 0x04#8 ≠ .ok (0x0C#8, 0#1) ∧ decOutput 0x80#8 ≠ .ok 6#8 := by decide

/-! ### Steps -/

/-- A table word put in front of the queue runs as the first operation after reset. -/
theorem test_step_runs_fetch_word :
    (match step (State.reset.withFetchWord 8 0x05) with
      | .next t => (t.enc.codewordOut, t.enc.rejectOut, t.pending) == (0x19#8, 0#1, [])
      | _ => false) = true := by decide

/-- The reset values are ones each unit shows for the input 0x00 (assumption log 3). -/
theorem test_reset_values_are_those_of_zero :
    ({ Enc.reset with settled := true } : Enc) = Enc.reset.evaluate 0x00#8 ∧
    ({ Dec.reset with settled := true } : Dec) = Dec.reset.evaluate 0x00#8 := by decide

/-- Program P1 of 95_test_vectors.md, line 1: ENCODE v1, v0 with v0 = 0x05 gives v1 = 0x19 and `rej` = 0. -/
theorem test_driver_encode :
    (match Driver.step [.encode 1 (.var 0)] (Driver.start.write 0 0x05#8 |>.branch true 0) with
      | .next D => (D.vars[1], D.rej, D.line) == (some 0x19#8, some 0#1, 1)
      | _ => false) = true := by decide

/-- Program P1, the FLIP line: 0x19 with bit 3 flipped is 0x11. -/
theorem test_driver_flip :
    (match Driver.step [.flip 2 1 (.imm 3#3)] (Driver.start.write 1 0x19#8 |>.branch true 0) with
      | .next D => D.vars[2] == some 0x11#8
      | _ => false) = true := by decide

/-- Host variables hold no value until they are written (R57). -/
theorem test_driver_unwritten :
    (match Driver.step [.verify 1 (.var 0)] Driver.start with
      | .fault f => f == .unwrittenVariable 0
      | _ => false) = true := by decide

/-! ### The hypotheses of the statements can be met -/

/-- A state in which ENC is settled on 0x05 and the host has two inputs to come. -/
def busyState : State :=
  { State.reset.evaluateEnc 0x05#8 with pending := [⟨.dec, 0x1D#8⟩, ⟨.enc, 0xF0#8⟩] }

/-- A driver whose v0 holds 0x19, whose v1 holds 0x0B and whose `rej` is 0. -/
def busyDriver : Driver :=
  { (Driver.start.write 0 0x19#8).write 1 0x0B#8 with rej := some 0#1, line := 0 }

theorem validCodeword_0x19 : ValidCodeword 0x19#8 := ⟨by decide, fun g => by cases g <;> decide⟩
theorem validCodeword_0x7F : ValidCodeword 0x7F#8 := ⟨by decide, fun g => by cases g <;> decide⟩

theorem witness_DataByteLegalIffHighNibbleZero : (15#8).toNat < 16 ∧ 16 ≤ (16#8).toNat := by decide

theorem witness_OpcodeMapSelectsByUnitThenMask : 0x0F#8 &&& 0xF0#8 = 0#8 ∧ 0x10#8 &&& 0xF0#8 ≠ 0#8 := by decide

theorem witness_DecodeOfEncodeIsIdentity :
    (Instr.encode 15#4).wellFormed = true ∧ (Instr.encodeReject 1#4 0#4).wellFormed = true ∧
      (Instr.verify 255#8).wellFormed = true := by decide

theorem witness_EveryDriveIsOneOperation :
    (Instr.encodeReject 15#4 0#4).wellFormed = true ∧ (Instr.encodeReject 15#4 0#4).drive = ⟨.enc, 0xF0#8⟩ := by decide

theorem witness_RejectedInputNextState : (1#4 : Nibble) ≠ 0#4 ∧ (15#4 : Nibble) ≠ 0#4 := by decide

theorem witness_RejectedBytesReportNotRepresentable :
    (busyState.enc.evaluate 0x10#8).reject = 1#1 ∧ (0x10#8).getLsbD 4 = true ∧
    (busyState.enc.evaluate 0x80#8).reject = 1#1 ∧ (0x80#8).getLsbD 7 = true := by decide

theorem witness_EncodeStepsFollowTheRules : (4 : Nat) ∈ [2, 4, 6, 7] ∧ (7 : Nat) ≠ 2 := by decide

theorem witness_EncodeCodewordProperties :
    ∃ t, exec (.encode 5#4) busyState = .next t ∧ t.enc.codewordOut = 0x19#8 := ⟨_, rfl, by decide⟩

theorem witness_EncodeCornerCases : (0x1A#8, 0x00#8, 1#1) ∈ ([(0x00#8, 0x00#8, 0#1), (0x0F#8, 0x7F#8, 0#1),
    (0x01#8, 0x55#8, 0#1), (0x0E#8, 0x2A#8, 0#1), (0x10#8, 0x00#8, 1#1), (0x80#8, 0x00#8, 1#1), (0xF0#8, 0x00#8, 1#1),
    (0xFF#8, 0x00#8, 1#1), (0x1A#8, 0x00#8, 1#1)] : List (Byte × Byte × Bit)) := by decide

theorem witness_CodewordBitSevenIsZero : (busyState.enc.evaluate 0x80#8).rejectOut = 1#1 := by decide

theorem witness_ValidCodewordsAreEncodeImage :
    ValidCodeword 0x19#8 ∧ ValidCodeword 0x7F#8 ∧ (0x19#8 : Byte) ≠ 0x7F#8 :=
  ⟨validCodeword_0x19, validCodeword_0x7F, by decide⟩

theorem witness_SingleErrorIsLocated : ValidCodeword 0x19#8 ∧ 0 < 7 ∧ 6 < 7 := ⟨validCodeword_0x19, by decide, by decide⟩

theorem witness_EncodeFlipVerifyLocates : (0 : Nat) < 8 ∧ (7 : Nat) < 8 := by decide

theorem witness_BitSevenBlindSpot : ValidCodeword 0x7F#8 := validCodeword_0x7F

theorem witness_SeveralFlipsAreMislocatedAsStated :
    ValidCodeword 0x19#8 ∧ ValidCodeword 0x7F#8 ∧ 0 < 7 ∧ 5 < 7 ∧ 6 < 7 ∧ (0 : Nat) ≠ 5 ∧ (0 : Nat) ≠ 6 ∧ (5 : Nat) ≠ 6 :=
  ⟨validCodeword_0x19, validCodeword_0x7F, by decide⟩

theorem witness_EachLocationFromThirtyTwoBytes :
    255#8 ∈ ([0#8, 1#8, 2#8, 3#8, 4#8, 5#8, 6#8, 255#8] : List Byte) := by decide

theorem witness_VerifyCornerCases : (0x16#8, 255#8) ∈ ([(0x00#8, 255#8), (0x80#8, 255#8), (0xFF#8, 255#8), (0x01#8, 0#8),
    (0x40#8, 6#8), (0x0C#8, 6#8), (0x03#8, 6#8), (0x16#8, 255#8)] : List (Byte × Byte)) := by decide

theorem witness_SentinelIsNoProofOfIntegrity : ValidCodeword 0x19#8 := validCodeword_0x19

theorem witness_RejectionLeavesNoTrace : (8#4 : Nibble) ≠ 0#4 := by decide

theorem witness_RejectedCodewordLooksLikeNibbleZero : (15#4 : Nibble) ≠ 0#4 := by decide

theorem busyState_coherent : Coherent busyState := ⟨fun _ => by decide, nofun⟩

theorem witness_StepKeepsUnitsCoherent : ∃ t, Coherent busyState ∧ step busyState = .next t :=
  ⟨_, busyState_coherent, rfl⟩

theorem witness_StepRunsDecodedInput :
    (Instr.verify 0x1D#8).wellFormed = true ∧ busyState.pending = (Instr.verify 0x1D#8).drive :: [⟨.enc, 0xF0#8⟩] := by
  decide

theorem witness_StepRunsTableWord : decodeTableWord 8 0x80 = some (.encodeReject 8#4 0#4) := by decide

theorem witness_UnitsNeverActAlone : (State.reset.evaluateDec 0x1D#8).pending = [] := by decide

theorem witness_NoPathBetweenTheUnits :
    busyState.pending = ({ busyState with enc := Enc.reset } : State).pending ∧
    busyState.dec = ({ busyState with enc := Enc.reset } : State).dec ∧
    busyState.enc = ({ busyState with dec := Dec.reset.evaluate 0x01#8 } : State).enc := by decide

theorem witness_RunSettlesEachUnitOnItsLastInput : busyState.pending.length ≤ 2 := by decide

theorem witness_SamplingNeedsAStableInput :
    ({ tPdEnc := 3, tPdDec := 4 } : Config.Delays).tPdEnc ≤ 3 ∧ 2 < ({ tPdEnc := 3, tPdDec := 4 } : Config.Delays).tPdEnc ∧
    ({ tPdEnc := 3, tPdDec := 4 } : Config.Delays).tPdDec ≤ 4 ∧ 3 < ({ tPdEnc := 3, tPdDec := 4 } : Config.Delays).tPdDec ∧
    (0x06#8 : Byte) ≠ busyState.enc.dataIn ∧ busyState.dec.settled = false := by decide

theorem witness_HoldingTheInputKeepsTheOutputs :
    (EncCoherent busyState.enc ∧ busyState.enc.settled = true) ∧
    (DecCoherent (Dec.reset.evaluate 0x1D#8) ∧ (Dec.reset.evaluate 0x1D#8).settled = true) :=
  ⟨⟨busyState_coherent.1, by decide⟩, fun _ => by decide, by decide⟩

/-- Two encoders and one decoder. -/
def smallFleet : Fleet := { encs := [Enc.reset, Enc.reset], decs := [Dec.reset] }

theorem witness_FleetOutputsDependOnOwnInput :
    ∀ e ∈ ([⟨.enc, 1, 0x05#8⟩, ⟨.dec, 0, 0x1D#8⟩, ⟨.enc, 0, 0xF0#8⟩] : List Evaluation), smallFleet.hasTarget e = true := by
  decide

theorem witness_FleetOrderCannotBeObserved :
    ([⟨.enc, 1, 0x05#8⟩, ⟨.dec, 0, 0x1D#8⟩] : List Evaluation).Perm [⟨.dec, 0, 0x1D#8⟩, ⟨.enc, 1, 0x05#8⟩] ∧
    (([⟨.enc, 1, 0x05#8⟩, ⟨.dec, 0, 0x1D#8⟩] : List Evaluation).map Evaluation.target).Nodup := by decide

theorem witness_InstancesShareNothing :
    ((.enc, 0) : UnitName × Nat) ≠ (⟨.enc, 1, 0x05#8⟩ : Evaluation).target ∧
    smallFleet.hasTarget ⟨.enc, 1, 0x05#8⟩ = true := by decide

theorem witness_DriverBlockOperations :
    busyDriver.halted = false ∧ busyDriver.vars[(0 : Var)] = some 0x19#8 ∧
    ([.encode 2 (.var 0)] : List DriverOp)[busyDriver.line]? = some (.encode 2 (.var 0)) ∧
    ([.verify 2 (.imm 0x19#8)] : List DriverOp)[busyDriver.line]? = some (.verify 2 (.imm 0x19#8)) := by decide

/-- One program line at a time: each form on a driver whose operands are written, and `MOV vD, #imm8`, the first line of
program P1, on a driver with no written variable. -/
theorem witness_DriverDataPseudoOperations :
    busyDriver.halted = false ∧ busyDriver.vars[(0 : Var)] = some 0x19#8 ∧ busyDriver.vars[(1 : Var)] = some 0x0B#8 ∧
    (∀ op ∈ ([.flip 2 0 (.imm 7#3), .flip 2 0 (.var 1), .mov 2 (.var 0), .and 2 0 1#8, .xor 2 0 (.imm 1#8),
      .xor 2 0 (.var 1), .add 2 0 255#8] : List DriverOp), ([op] : List DriverOp)[busyDriver.line]? = some op) ∧
    Driver.start.halted = false ∧
    ([.mov 0 (.imm 0x05#8)] : List DriverOp)[Driver.start.line]? = some (.mov 0 (.imm 0x05#8)) := by decide

/-- Each branch on a driver that has written only what the branch reads: nothing, one variable, or `rej` alone. -/
theorem witness_DriverBranches :
    (Driver.start.halted = false ∧
      ∀ op ∈ ([.b 3, .halt] : List DriverOp), ([op] : List DriverOp)[Driver.start.line]? = some op) ∧
    (({ Driver.start.write 0 0x19#8 with line := 0 } : Driver).vars[(0 : Var)] = some 0x19#8 ∧
      ({ Driver.start.write 0 0x19#8 with line := 0 } : Driver).rej = none ∧
      ∀ op ∈ ([.bne 0 0x19#8 3, .beq 0 0x19#8 3] : List DriverOp), ([op] : List DriverOp)[0]? = some op) ∧
    (({ Driver.start with rej := some 1#1 } : Driver).rej = some 1#1 ∧
      ({ Driver.start with rej := some 1#1 } : Driver).vars[(0 : Var)] = none ∧
      ([.brej 3] : List DriverOp)[0]? = some (.brej 3)) := by decide

theorem witness_DriverStopsOnlyOnUnwritten :
    (busyDriver.halted = false ∧ busyDriver.vars[(0 : Var)] = some 0x19#8 ∧ busyDriver.vars[(5 : Var)] = none) ∧
    (∀ op ∈ ([.encode 2 (.var 5), .verify 2 (.var 5), .flip 2 5 (.var 6), .mov 2 (.var 5), .and 2 5 1#8, .xor 2 5 (.var 0),
      .add 2 5 1#8, .bne 5 1#8 3, .beq 5 1#8 3, .flip 2 0 (.var 5), .xor 2 0 (.var 5)] : List DriverOp),
      ([op] : List DriverOp)[busyDriver.line]? = some op) ∧
    (Driver.start.halted = false ∧ Driver.start.rej = none ∧
      ([.brej 3] : List DriverOp)[Driver.start.line]? = some (.brej 3) ∧
      ([] : List DriverOp)[Driver.start.line]? = none) ∧
    (match Driver.step [] busyDriver with
      | .fault f => f == .noSuchLine 0
      | _ => false) = true := by decide

end Sys2Proof.Tests
end

section
/-! Parities and even flags (R11, R12): each against the count of the group's set bits, and as the XOR of R24's positions. -/

namespace Sys2Proof.Proofs.Flags

open Sys2Proof.Machine Sys2Proof.Safety

/-- The bit the machine reads and the bit the closed forms speak of are one. -/
@[simp] theorem bitAt_eq_bit {w : Nat} (v : BitVec w) (i : Nat) : bitAt v i = bit v i := by
  ext j hj
  obtain rfl : j = 0 := by omega
  simp [bitAt, bit]

theorem bit_of_getLsbD {w : Nat} {v : BitVec w} {i : Nat} (h : v.getLsbD i = true) : bit v i = 1#1 := by
  simp [bit, h]

theorem bit_of_not_getLsbD {w : Nat} {v : BitVec w} {i : Nat} (h : ¬ v.getLsbD i = true) : bit v i = 0#1 := by
  simp [bit, h]

/-- The XOR of the bits at any list of positions is 1 exactly when an odd number of them is set: a set bit turns both the
XOR and the count's parity over, a clear bit leaves both. -/
theorem foldr_xor_bitAt_eq_odd (v : Byte) (l : List Nat) :
    l.foldr (fun i acc => bitAt v i ^^^ acc) 0#1 =
      if (l.filter fun i => v.getLsbD i).length % 2 = 1 then 1#1 else 0#1 := by
  induction l with
  | nil => rfl
  | cons i l ih =>
    rw [List.foldr_cons, ih, bitAt_eq_bit]
    by_cases hset : v.getLsbD i = true
    · rw [bit_of_getLsbD hset, List.filter_cons_of_pos hset, List.length_cons]
      obtain heven | hodd := Nat.mod_two_eq_zero_or_one (l.filter fun i => v.getLsbD i).length
      · simp [heven, Nat.succ_mod_two_eq_one_iff]
      · simp [hodd, Nat.succ_mod_two_eq_one_iff]
    · rw [bit_of_not_getLsbD hset, List.filter_cons_of_neg hset, BitVec.zero_xor]

/-- R11: the parity by counting. -/
theorem parity_eq_odd (v : Byte) (g : ParityGroup) :
    parity v g = if (g.members.filter fun i => v.getLsbD i).length % 2 = 1 then 1#1 else 0#1 :=
  foldr_xor_bitAt_eq_odd v g.members

@[simp] theorem parity_r0 (v : Byte) : parity v .r0 = xorFour v 6 4 2 0 := by
  simp [parity, ParityGroup.members, xorFour, BitVec.xor_assoc]

@[simp] theorem parity_c0c1 (v : Byte) : parity v .c0c1 = xorFour v 3 2 1 0 := by
  simp [parity, ParityGroup.members, xorFour, BitVec.xor_assoc]

@[simp] theorem parity_c0c2 (v : Byte) : parity v .c0c2 = xorFour v 5 4 1 0 := by
  simp [parity, ParityGroup.members, xorFour, BitVec.xor_assoc]

theorem evenFlag_eq_not_parity (v : Byte) (g : ParityGroup) : evenFlag v g = ~~~ parity v g := rfl

/-- R12: the even flag is 1 exactly when the group is consistent. -/
theorem evenFlag_eq_one_iff (v : Byte) (g : ParityGroup) : evenFlag v g = 1#1 ↔ parity v g = 0#1 := by
  rw [evenFlag_eq_not_parity]
  generalize parity v g = p
  revert p
  decide

/-- R12: the even flag by counting. -/
theorem evenFlag_eq_even (v : Byte) (g : ParityGroup) :
    evenFlag v g = if (g.members.filter fun i => v.getLsbD i).length % 2 = 0 then 1#1 else 0#1 := by
  rw [evenFlag_eq_not_parity, parity_eq_odd]
  obtain heven | hodd := Nat.mod_two_eq_zero_or_one (g.members.filter fun i => v.getLsbD i).length
  · simp [heven]
  · simp [hodd]

/-- Settles O13: by counting over any list of positions, and position by position for the three groups of R24. -/
theorem parityIsOddCount : Obligations.ParityIsOddCount :=
  fun v g => ⟨parity_eq_odd v g, parity_r0 v, parity_c0c1 v, parity_c0c2 v⟩

/-- Settles O14: the even flag negates the parity that O13 counts. -/
theorem evenFlagIsEvenCount : Obligations.EvenFlagIsEvenCount :=
  fun v g => ⟨evenFlag_eq_not_parity v g, evenFlag_eq_one_iff v g, evenFlag_eq_even v g⟩

end Sys2Proof.Proofs.Flags
end

section
/-! The parity groups as sets of bit positions and as masks (R24). -/

namespace Sys2Proof.Proofs.Groups

open Sys2Proof.Machine Sys2Proof.Safety

theorem mem_members_r0 (i : Nat) : i ∈ ParityGroup.members .r0 ↔ i = 6 ∨ i = 4 ∨ i = 2 ∨ i = 0 := by
  simp [ParityGroup.members]

theorem mem_members_c0c1 (i : Nat) : i ∈ ParityGroup.members .c0c1 ↔ i = 3 ∨ i = 2 ∨ i = 1 ∨ i = 0 := by
  simp [ParityGroup.members]

theorem mem_members_c0c2 (i : Nat) : i ∈ ParityGroup.members .c0c2 ↔ i = 5 ∨ i = 4 ∨ i = 1 ∨ i = 0 := by
  simp [ParityGroup.members]

/-- R24: every group lies in positions 0 to 6, so bit 7 is in none (90_conflicts.md C1). -/
theorem lt_seven_of_mem_members {g : ParityGroup} {i : Nat} (h : i ∈ g.members) : i < 7 := by
  cases g with
  | r0 => have := (mem_members_r0 i).1 h; omega
  | c0c1 => have := (mem_members_c0c1 i).1 h; omega
  | c0c2 => have := (mem_members_c0c2 i).1 h; omega

theorem seven_notMem_members (g : ParityGroup) : 7 ∉ g.members :=
  fun h => (lt_seven_of_mem_members h).false

/-- A mask is a byte, so the eight positions are compared one by one; from position 8 on no bit is set, and no group has a
member. -/
theorem getLsbD_mask_iff_mem_members (g : ParityGroup) (i : Nat) : g.mask.getLsbD i = true ↔ i ∈ g.members := by
  obtain hin | hout := Nat.lt_or_ge i 8
  · have hbyte : ∀ j < 8, g.mask.getLsbD j = true ↔ j ∈ g.members := by cases g <;> decide
    exact hbyte i hin
  · have hclear : g.mask.getLsbD i = false := BitVec.getLsbD_of_ge _ _ hout
    have hnot : i ∉ g.members := fun h => absurd (lt_seven_of_mem_members h) (by omega)
    simp [hclear, hnot]

/-- Settles O15: the members as listed, the masks position by position; mask values and slots are the constants' own. -/
theorem parityGroupsAndMasks : Obligations.ParityGroupsAndMasks :=
  ⟨mem_members_r0, mem_members_c0c1, mem_members_c0c2, getLsbD_mask_iff_mem_members,
    rfl, rfl, rfl, rfl, rfl, rfl, seven_notMem_members⟩

end Sys2Proof.Proofs.Groups
end

section
/-! The bits of a value, read as R8 and R10 do: what each operator does to one bit. A concatenation with one bit at its low
end is read bit by bit from there, which is how the closed forms of R63 to R68 are written. -/

namespace Sys2Proof.Proofs.Bits

open Sys2Proof.Machine Sys2Proof.Safety

theorem eq_of_bit_eq {w : Nat} {u v : BitVec w} (h : ∀ i < w, bit u i = bit v i) : u = v :=
  BitVec.eq_of_getLsbD_eq fun i hi => BitVec.ofBool_eq_iff_eq.1 (h i hi)

theorem bit_eq_zero_iff {w : Nat} (v : BitVec w) (i : Nat) : bit v i = 0#1 ↔ v.getLsbD i = false :=
  BitVec.ofBool_eq_iff_eq (b' := false)

@[simp] theorem bit_of_zero {w : Nat} (i : Nat) : bit (0#w) i = 0#1 := by
  simp [bit]

@[simp] theorem bit_zero_of_bit (p : Bit) : bit p 0 = p := by
  revert p
  decide

@[simp] theorem bit_or {w : Nat} (u v : BitVec w) (i : Nat) : bit (u ||| v) i = bit u i ||| bit v i := by
  simp [bit]

@[simp] theorem bit_xor {w : Nat} (u v : BitVec w) (i : Nat) : bit (u ^^^ v) i = bit u i ^^^ bit v i := by
  simp [bit]

@[simp] theorem bit_setWidth_of_lt {w n i : Nat} (v : BitVec w) (h : i < n) : bit (v.setWidth n) i = bit v i := by
  simp [bit, h]

@[simp] theorem bit_append_zero {w : Nat} (u : BitVec w) (p : Bit) : bit (u ++ p) 0 = p := by
  have hlow : bit (u ++ p) 0 = bit p 0 := congrArg BitVec.ofBool (by rw [BitVec.getLsbD_append]; simp)
  rw [hlow, bit_zero_of_bit]

@[simp] theorem bit_append_succ {w : Nat} (u : BitVec w) (p : Bit) (i : Nat) : bit (u ++ p) (i + 1) = bit u i := by
  simp [bit, BitVec.getLsbD_append]

@[simp] theorem bit_bitPlacedAt (p : Bit) {k : Nat} (hk : k < 8) (i : Nat) :
    bit (bitPlacedAt p k) i = if i = k then p else 0#1 := by
  obtain rfl | rfl := BitVec.eq_zero_or_eq_one p
  · simp [bitPlacedAt]
  · have hone : bitPlacedAt 1#1 k = BitVec.twoPow 8 k := (BitVec.twoPow_eq 8 k).symm
    by_cases hik : i = k
    · simp [bit, hone, hik, hk]
    · simp [bit, hone, hik, Ne.symm hik]

@[simp] theorem xorFour_xor (a b : Byte) (i j k l : Nat) :
    xorFour (a ^^^ b) i j k l = xorFour a i j k l ^^^ xorFour b i j k l := by
  simp only [xorFour, bit_xor]
  ac_rfl

end Sys2Proof.Proofs.Bits
end

section
/-! ENC's half of the decoder (R45, R56): the three ways to say that a DATA byte is legal, and what each class decodes to. -/

namespace Sys2Proof.Proofs.DataByte

open Sys2Proof.Machine

/-- The mask of R56 keeps the high nibble in its place and clears the low one. -/
theorem and_highMask_eq (b : Byte) : b &&& 0xF0#8 = highNibble b ++ 0#4 :=
  calc b &&& 0xF0#8
    _ = dataByte (highNibble b) (b.extractLsb' 0 4) &&& (BitVec.allOnes 4 ++ 0#4) := by
        rw [highNibble, dataByte_nibbles]; rfl
    _ = highNibble b ++ 0#4 := by
        rw [dataByte, BitVec.and_append, BitVec.and_allOnes, BitVec.and_zero]

/-- R56's test of a byte and R45's are one. -/
theorem and_highMask_eq_zero_iff (b : Byte) : b &&& 0xF0#8 = 0#8 ↔ highNibble b = 0#4 := by
  rw [and_highMask_eq, show (0#8 : Byte) = 0#4 ++ 0#4 from rfl, BitVec.append_left_inj]

/-- R45: the legal bytes are the 16 below 0x10. -/
theorem highNibble_eq_zero_iff (b : Byte) : highNibble b = 0#4 ↔ b.toNat < 16 := by
  have hlt := b.isLt
  rw [highNibble, ← BitVec.toNat_inj, BitVec.extractLsb'_toNat, Nat.shiftRight_eq_div_pow, BitVec.toNat_ofNat]
  omega

theorem highNibble_ne_zero_of_ge {b : Byte} (h : 16 ≤ b.toNat) : highNibble b ≠ 0#4 :=
  mt (highNibble_eq_zero_iff b).1 (Nat.not_lt.2 h)

theorem rejectFlag_of_lt {b : Byte} (h : b.toNat < 16) : rejectFlag b = 0#1 :=
  if_pos ((highNibble_eq_zero_iff b).2 h)

theorem rejectFlag_of_ge {b : Byte} (h : 16 ≤ b.toNat) : rejectFlag b = 1#1 :=
  if_neg (highNibble_ne_zero_of_ge h)

theorem decodeData_of_mask {b : Byte} (h : b &&& 0xF0#8 = 0#8) :
    decodeData b = .encode (b.extractLsb' 0 4) := if_pos h

theorem decodeData_of_not_mask {b : Byte} (h : b &&& 0xF0#8 ≠ 0#8) :
    decodeData b = .encodeReject (b.extractLsb' 4 4) (b.extractLsb' 0 4) := if_neg h

theorem decodeData_of_lt {b : Byte} (h : b.toNat < 16) : decodeData b = .encode (b.setWidth 4) := by
  rw [decodeData_of_mask ((and_highMask_eq_zero_iff b).2 ((highNibble_eq_zero_iff b).2 h)),
    BitVec.setWidth_eq_extractLsb' (by decide)]

theorem decodeData_of_ge {b : Byte} (h : 16 ≤ b.toNat) :
    decodeData b = .encodeReject (highNibble b) (b.extractLsb' 0 4) :=
  decodeData_of_not_mask (mt (and_highMask_eq_zero_iff b).1 (highNibble_ne_zero_of_ge h))

/-- Settles O3: the decoder's two branches on ENC, with the fields read bit by bit; on DEC it has one. -/
theorem opcodeMapSelectsByUnitThenMask : Obligations.OpcodeMapSelectsByUnitThenMask := by
  refine fun b => ⟨fun h => ⟨_, decodeData_of_mask h, fun i hi => ?_⟩,
    fun h => ⟨_, _, decodeData_of_not_mask h, fun i hi => ⟨?_, ?_⟩⟩, rfl⟩
  · simp [hi]
  · simp [hi]
  · simp [hi, Nat.add_comm]

end Sys2Proof.Proofs.DataByte
end

section
/-! ENC computes its closed form: the steps of R63 to R66 one by one against `stepsFor`, then a whole evaluation against
`encFor`, for every byte and from every state. -/

namespace Sys2Proof.Proofs.EncClosedForm

open Sys2Proof.Machine Sys2Proof.Safety Sys2Proof.Proofs.Bits Sys2Proof.Proofs.DataByte

theorem spread_eq_w0 (b : Byte) : spread b = (stepsFor (b.setWidth 4)).w0 := by
  simp [spread, stepsFor, workingByteFor]

theorem parity_w0 (d : Nibble) : parity (stepsFor d).w0 .c0c1 = (stepsFor d).pC0c1 := by
  simp only [Flags.parity_c0c1, xorFour, stepsFor, workingByteFor, bit_append_zero, bit_append_succ]
  ac_rfl

/-- R64's insertion; like the next two, it writes a slot that holds 0 so far. -/
theorem w0_or_pC0c1 (d : Nibble) :
    (stepsFor d).w0 ||| bitPlacedAt (stepsFor d).pC0c1 ParityGroup.c0c1.slot = (stepsFor d).w1 := by
  refine eq_of_bit_eq fun i hi => ?_
  interval_cases i <;> simp [stepsFor, workingByteFor, ParityGroup.slot]

theorem parity_w1 (d : Nibble) : parity (stepsFor d).w1 .c0c2 = (stepsFor d).pC0c2 := by
  simp only [Flags.parity_c0c2, xorFour, stepsFor, bit_append_zero, bit_append_succ]
  ac_rfl

theorem w1_or_pC0c2 (d : Nibble) :
    (stepsFor d).w1 ||| bitPlacedAt (stepsFor d).pC0c2 ParityGroup.c0c2.slot = (stepsFor d).w2 := by
  refine eq_of_bit_eq fun i hi => ?_
  interval_cases i <;> simp [stepsFor, ParityGroup.slot]

/-- R66: `d1` is in both parities inserted before R0's, so it drops out of R0's. -/
theorem xor_drops_shared_bit (d0 d1 d2 d3 : Bit) :
    (d0 ^^^ d1 ^^^ d3) ^^^ (d0 ^^^ d1 ^^^ d2) ^^^ d0 = d0 ^^^ d2 ^^^ d3 := by
  revert d0 d1 d2 d3
  decide

theorem parity_w2 (d : Nibble) : parity (stepsFor d).w2 .r0 = (stepsFor d).pR0 := by
  simp [xorFour, stepsFor, xor_drops_shared_bit]

theorem w2_or_pR0 (d : Nibble) :
    (stepsFor d).w2 ||| bitPlacedAt (stepsFor d).pR0 ParityGroup.r0.slot = (stepsFor d).w3 := by
  refine eq_of_bit_eq fun i hi => ?_
  interval_cases i <;> simp [stepsFor, codewordFor, ParityGroup.slot]

/-- R63 to R66 together: only the low nibble of the byte is read. -/
theorem encSteps_eq_stepsFor (b : Byte) : encSteps b = stepsFor (b.setWidth 4) := by
  simp only [encSteps, spread_eq_w0, parity_w0, w0_or_pC0c1, parity_w1, w1_or_pC0c2, parity_w2, w2_or_pR0]

theorem encFor_of_lt {b : Byte} (h : b.toNat < 16) : encFor b =
    { dataIn := b, settled := true, reject := 0#1, steps := some (stepsFor (b.setWidth 4))
      codewordOut := codewordFor (b.setWidth 4), rejectOut := 0#1 } := if_pos h

theorem encFor_of_ge {b : Byte} (h : 16 ≤ b.toNat) : encFor b =
    { dataIn := b, settled := true, reject := 1#1, steps := none, codewordOut := 0x00#8, rejectOut := 1#1 } :=
  if_neg (Nat.not_lt.2 h)

theorem evaluate_eq_encFor (b : Byte) (e : Enc) : e.evaluate b = encFor b := by
  obtain hlt | hge := Nat.lt_or_ge b.toNat 16
  · rw [Enc.evaluate_of_legal (rejectFlag_of_lt hlt), encSteps_eq_stepsFor, encFor_of_lt hlt]
    rfl
  · rw [Enc.evaluate_of_rejected (rejectFlag_of_ge hge), encFor_of_ge hge]

theorem evaluateEnc_eq_encFor (b : Byte) (s : State) : s.evaluateEnc b = { s with enc := encFor b } :=
  congrArg (fun e => { s with enc := e }) (evaluate_eq_encFor b s.enc)

/-- All that driving a byte on ENC can do, encoded or rejected. -/
theorem exec_decode_enc (b : Byte) (s : State) : exec (decode ⟨.enc, b⟩) s = .next { s with enc := encFor b } :=
  (exec_decodeData b s).trans (congrArg _ (evaluateEnc_eq_encFor b s))

theorem encFor_dataByte_zero (d : Nibble) : encFor (dataByte 0#4 d) =
    { dataIn := dataByte 0#4 d, settled := true, reject := 0#1, steps := some (stepsFor d)
      codewordOut := codewordFor d, rejectOut := 0#1 } := by
  have hlt : (dataByte 0#4 d).toNat < 16 := by
    rw [dataByte, BitVec.toNat_append]
    simp [d.isLt]
  have hlow : (dataByte 0#4 d).setWidth 4 = d := BitVec.setWidth_append_eq_right
  rw [encFor_of_lt hlt, hlow]

theorem codewordOut_of_exec_encode {d : Nibble} {s t : State} (h : exec (.encode d) s = .next t) :
    t.enc.codewordOut = codewordFor d := by
  obtain rfl := Host.Outcome.next.inj ((exec_encode d s).symm.trans h)
  rw [evaluateEnc_eq_encFor, encFor_dataByte_zero]

theorem codewordFor_bit_seven (d : Nibble) : (codewordFor d).getLsbD 7 = false :=
  (bit_eq_zero_iff _ _).1 (by simp [codewordFor])

/-- Settles O2: below 16 the closed form's and the decoder's legal case, from 16 on their rejected case. -/
theorem dataByteLegalIffHighNibbleZero : Obligations.DataByteLegalIffHighNibbleZero := by
  refine fun b s => ⟨_, exec_decode_enc b s, highNibble_eq_zero_iff b, fun hlt => ?_, fun hge => ?_⟩
  · rw [encFor_of_lt hlt]
    exact ⟨decodeData_of_lt hlt, rfl, rfl⟩
  · rw [encFor_of_ge hge]
    exact ⟨⟨_, _, highNibble_ne_zero_of_ge hge, decodeData_of_ge hge⟩, rfl⟩

/-- Settles O11: bit 7 of R68's codeword is a constant 0; a rejected byte shows 0x00. -/
theorem codewordBitSevenIsZero : Obligations.CodewordBitSevenIsZero := by
  refine fun b s => ⟨_, exec_decode_enc b s, ?_⟩
  obtain hlt | hge := Nat.lt_or_ge b.toNat 16
  · rw [encFor_of_lt hlt]
    exact ⟨codewordFor_bit_seven _, by simp⟩
  · rw [encFor_of_ge hge]
    exact ⟨BitVec.getLsbD_zero, fun _ => rfl⟩

end Sys2Proof.Proofs.EncClosedForm
end

section
/-! The valid codewords (R58). The three parity checks fix the slots as functions of the data bits, so a valid codeword is
the codeword of its own data bits. The checks are linear, so two codewords differ as a codeword differs from 0x00. -/

namespace Sys2Proof.Proofs.Codewords

open Sys2Proof.Machine Sys2Proof.Safety Sys2Proof.Proofs.Bits Sys2Proof.Proofs.EncClosedForm

/-- The checks of R58 solved for the slots, as R46 and R70 give them. -/
theorem checks_iff_slots (d0 d1 d2 d3 p2 p4 p6 : Bit) :
    (p6 ^^^ p4 ^^^ p2 ^^^ d0 = 0#1 ∧ d2 ^^^ p2 ^^^ d1 ^^^ d0 = 0#1 ∧ d3 ^^^ p4 ^^^ d1 ^^^ d0 = 0#1) ↔
      (p2 = d0 ^^^ d1 ^^^ d2 ∧ p4 = d0 ^^^ d1 ^^^ d3 ∧ p6 = d0 ^^^ d2 ^^^ d3) := by
  revert d0 d1 d2 d3 p2 p4 p6
  decide

theorem forall_parity_eq_zero_iff (c : Byte) : (∀ g, parity c g = 0#1) ↔
    xorFour c 6 4 2 0 = 0#1 ∧ xorFour c 3 2 1 0 = 0#1 ∧ xorFour c 5 4 1 0 = 0#1 := by
  rw [← Flags.parity_r0, ← Flags.parity_c0c1, ← Flags.parity_c0c2]
  exact ⟨fun h => ⟨h _, h _, h _⟩, fun ⟨hr0, hc0c1, hc0c2⟩ g => by cases g <;> assumption⟩

theorem validCodeword_iff_slots (c : Byte) : ValidCodeword c ↔
    bit c 7 = 0#1 ∧ bit c 2 = bit c 0 ^^^ bit c 1 ^^^ bit c 3 ∧ bit c 4 = bit c 0 ^^^ bit c 1 ^^^ bit c 5 ∧
      bit c 6 = bit c 0 ^^^ bit c 3 ^^^ bit c 5 := by
  rw [ValidCodeword, forall_parity_eq_zero_iff, bit_eq_zero_iff]
  exact and_congr_right fun _ => checks_iff_slots ..

theorem validCodeword_codewordFor (d : Nibble) : ValidCodeword (codewordFor d) := by
  simp [validCodeword_iff_slots, codewordFor]

/-- The data bits of a codeword, at their positions of R46. -/
def dataNibble (c : Byte) : Nibble := bit c 5 ++ bit c 3 ++ bit c 1 ++ bit c 0

theorem dataNibble_codewordFor (d : Nibble) : dataNibble (codewordFor d) = d := by
  refine eq_of_bit_eq fun i hi => ?_
  interval_cases i <;> simp [codewordFor, dataNibble]

theorem codewordFor_dataNibble {c : Byte} (h : ValidCodeword c) : codewordFor (dataNibble c) = c := by
  obtain ⟨h7, h2, h4, h6⟩ := (validCodeword_iff_slots c).1 h
  refine eq_of_bit_eq fun i hi => ?_
  interval_cases i <;> simp [codewordFor, dataNibble, h7, h2, h4, h6]

theorem codewordFor_injective : Function.Injective codewordFor :=
  Function.LeftInverse.injective dataNibble_codewordFor

theorem validCodeword_iff_exists (c : Byte) : ValidCodeword c ↔ ∃ d, codewordFor d = c :=
  ⟨fun h => ⟨dataNibble c, codewordFor_dataNibble h⟩, fun ⟨d, hd⟩ => hd ▸ validCodeword_codewordFor d⟩

theorem validCodeword_iff_exec_encode (s : State) (c : Byte) :
    ValidCodeword c ↔ ∃ d t, exec (.encode d) s = .next t ∧ t.enc.codewordOut = c := by
  rw [validCodeword_iff_exists]
  refine exists_congr fun d => ⟨fun h => ⟨_, exec_encode d s, ?_⟩, fun ⟨t, ht, h⟩ => ?_⟩
  · rw [codewordOut_of_exec_encode (exec_encode d s), h]
  · rw [← codewordOut_of_exec_encode ht, h]

/-- The codewords of the 16 nibbles in order (95_test_vectors.md, table 2.1). -/
def allCodewords : List Byte := (List.finRange 16).map fun n => codewordFor (BitVec.ofFin n)

theorem nodup_allCodewords : allCodewords.Nodup :=
  (List.nodup_finRange 16).map fun _ _ h => congrArg BitVec.toFin (codewordFor_injective h)

theorem mem_allCodewords (c : Byte) : c ∈ allCodewords ↔ ValidCodeword c := by
  rw [validCodeword_iff_exists, allCodewords, List.mem_map]
  exact ⟨fun ⟨n, _, h⟩ => ⟨_, h⟩, fun ⟨d, h⟩ => ⟨d.toFin, List.mem_finRange _, h⟩⟩

theorem parity_xor (a b : Byte) (g : ParityGroup) : parity (a ^^^ b) g = parity a g ^^^ parity b g := by
  cases g <;> simp

theorem validCodeword_xor {a b : Byte} (ha : ValidCodeword a) (hb : ValidCodeword b) : ValidCodeword (a ^^^ b) := by
  obtain ⟨ha7, hag⟩ := ha
  obtain ⟨hb7, hbg⟩ := hb
  refine ⟨?_, fun g => ?_⟩
  · rw [BitVec.getLsbD_xor, ha7, hb7, Bool.xor_false]
  · rw [parity_xor, hag, hbg, BitVec.xor_self]

theorem distance_eq_distance_zero (a b : Byte) : distance a b = distance (a ^^^ b) 0#8 := by
  simp [distance]

/-- The least weight of the code, over the 15 codewords other than 0x00. -/
theorem three_le_distance_zero : ∀ d : Nibble, codewordFor d ≠ 0#8 → 3 ≤ distance (codewordFor d) 0#8 := by
  decide

/-- A linear code's least distance is its least weight. -/
theorem three_le_distance {a b : Byte} (ha : ValidCodeword a) (hb : ValidCodeword b) (hne : a ≠ b) :
    3 ≤ distance a b := by
  have hdiff : a ^^^ b ≠ 0#8 := mt BitVec.xor_eq_zero_iff.1 hne
  obtain ⟨d, hd⟩ := (validCodeword_iff_exists _).1 (validCodeword_xor ha hb)
  rw [distance_eq_distance_zero, ← hd]
  exact three_le_distance_zero d (hd ▸ hdiff)

/-- Settles O12: the image by the slots the checks fix, the count by ENCODE's injectivity, the distance by linearity. -/
theorem validCodewordsAreEncodeImage : Obligations.ValidCodewordsAreEncodeImage :=
  ⟨validCodeword_iff_exec_encode, ⟨allCodewords, nodup_allCodewords, rfl, mem_allCodewords⟩,
    fun _ _ => three_le_distance⟩

end Sys2Proof.Proofs.Codewords
end

section
/-! What DEC can drive on `location_out`: an entry of the decision table (R50, R76). -/

namespace Sys2Proof.Proofs.Location

open Sys2Proof.Machine

/-- The table has an entry for every syndrome, so its default is never read. -/
theorem locLookup_mem_locTable (syn : BitVec 3) : locLookup syn ∈ locTable := by
  have hlt : syn.toNat < locTable.length := syn.isLt
  rw [locLookup, List.getD_eq_getElem _ _ hlt]
  exact List.getElem_mem hlt

theorem le_six_or_sentinel_of_mem_locTable : ∀ l ∈ locTable, l.toNat ≤ 6 ∨ l = sentinel := by
  decide

/-- Settles O24: VERIFY's output is a table entry, and each entry is one of the eight values. -/
theorem locationIsOneOfEight : Obligations.LocationIsOneOfEight :=
  fun c s => ⟨_, exec_verify c s, le_six_or_sentinel_of_mem_locTable _ (locLookup_mem_locTable _)⟩

end Sys2Proof.Proofs.Location
end

section
/-! ENCODE's next state and the rules of its steps (R63 to R68). An insertion fills a slot that holds 0, so it is an XOR:
it moves the parity of the groups that have the slot and of no other. -/

namespace Sys2Proof.Proofs.EncodeSteps

open Sys2Proof.Machine Sys2Proof.Safety Sys2Proof.Proofs.Bits Sys2Proof.Proofs.EncClosedForm

/-- Settles O6: a nibble's DATA byte is legal, and ENC computes its closed form from every state. -/
theorem encodeNextState : Obligations.EncodeNextState := fun d s => by
  rw [exec_encode, evaluateEnc_eq_encFor, encFor_dataByte_zero, dataByte]

theorem bit_or_bitPlacedAt_of_ne (v : Byte) (p : Bit) {k i : Nat} (hk : k < 8) (hi : i ≠ k) :
    bit (v ||| bitPlacedAt p k) i = bit v i := by
  simp [hk, hi]

theorem or_bitPlacedAt_eq_xor {v : Byte} {k : Nat} (hk : k < 8) (hslot : bit v k = 0#1) (p : Bit) :
    v ||| bitPlacedAt p k = v ^^^ bitPlacedAt p k := by
  refine eq_of_bit_eq fun i _ => ?_
  by_cases hi : i = k
  · simp [hk, hi, hslot]
  · simp [hk, hi]

/-- R65's remark, for any group and any position outside it. -/
theorem parity_or_bitPlacedAt_of_notMem (v : Byte) (p : Bit) {k : Nat} (hk : k < 8) {g : ParityGroup}
    (hg : k ∉ g.members) : parity (v ||| bitPlacedAt p k) g = parity v g := by
  refine List.foldr_ext _ _ _ fun i hi acc => ?_
  rw [Flags.bitAt_eq_bit, Flags.bitAt_eq_bit, bit_or_bitPlacedAt_of_ne v p hk (ne_of_mem_of_not_mem hi hg)]

/-- R66's remark: into a clear slot 6 exactly R0's parity makes R0 consistent. -/
theorem parity_r0_or_slot_eq_zero_iff {v : Byte} (hslot : bit v 6 = 0#1) (p : Bit) :
    parity (v ||| bitPlacedAt p 6) .r0 = 0#1 ↔ p = parity v .r0 := by
  have hplaced : parity (bitPlacedAt p 6) .r0 = p := by simp [xorFour]
  rw [or_bitPlacedAt_eq_xor (by decide) hslot, Codewords.parity_xor, hplaced, BitVec.xor_eq_zero_iff, eq_comm]

/-- R63: the positions of the working byte that hold no data bit. -/
theorem w0_getLsbD_of_not_data (d : Nibble) : ∀ i ∈ [2, 4, 6, 7], (stepsFor d).w0.getLsbD i = false := by
  simp [← bit_eq_zero_iff, stepsFor, workingByteFor]

theorem bit_w1_slot (d : Nibble) : bit (stepsFor d).w1 2 = (stepsFor d).pC0c1 := by
  simp [stepsFor]

/-- R64's remark: inserting C0C1's parity changes no bit but bit 2. -/
theorem w1_getLsbD_of_ne (d : Nibble) {i : Nat} (hi : i ≠ 2) : (stepsFor d).w1.getLsbD i = (stepsFor d).w0.getLsbD i := by
  rw [← BitVec.ofBool_eq_iff_eq, ← w0_or_pC0c1]
  exact bit_or_bitPlacedAt_of_ne _ _ (by decide) hi

theorem parity_c0c2_w1_eq_w0 (d : Nibble) : parity (stepsFor d).w1 .c0c2 = parity (stepsFor d).w0 .c0c2 := by
  rw [← w0_or_pC0c1]
  exact parity_or_bitPlacedAt_of_notMem _ _ (by decide) (by decide)

/-- R66: of R0's four positions only bit 0 holds a data bit. -/
theorem parity_r0_w0 (d : Nibble) : parity (stepsFor d).w0 .r0 = bit d 0 := by
  simp [xorFour, stepsFor, workingByteFor]

theorem parity_r0_w2_or_slot_eq_zero_iff (d : Nibble) (p : Bit) :
    parity ((stepsFor d).w2 ||| bitPlacedAt p 6) .r0 = 0#1 ↔ p = (stepsFor d).pR0 := by
  rw [← parity_w2]
  exact parity_r0_or_slot_eq_zero_iff (by simp [stepsFor]) p

/-- Settles O7: ENCODE's steps are the closed form's (O6), and those satisfy each rule. -/
theorem encodeStepsFollowTheRules : Obligations.EncodeStepsFollowTheRules := fun d s =>
  ⟨_, stepsFor d, encodeNextState d s, rfl,
    rfl, w0_getLsbD_of_not_data d,
    (parity_w0 d).symm, rfl, (w0_or_pC0c1 d).symm, bit_w1_slot d, fun _ => w1_getLsbD_of_ne d,
    (parity_w1 d).symm, rfl, (w1_or_pC0c2 d).symm, parity_c0c2_w1_eq_w0 d,
    (parity_w2 d).symm, rfl, (w2_or_pR0 d).symm, parity_r0_w0 d, parity_r0_w2_or_slot_eq_zero_iff d⟩

end Sys2Proof.Proofs.EncodeSteps
end

section
/-! What every codeword ENCODE produces has (R70): it is valid, so VERIFY finds nothing, and it keeps the data bits. -/

namespace Sys2Proof.Proofs.EncodeCodeword

open Sys2Proof.Machine Sys2Proof.Safety Sys2Proof.Proofs.Bits Sys2Proof.Proofs.EncClosedForm Sys2Proof.Proofs.Codewords

/-- R80, the case without an error: three even flags of 1 index the table's last entry, the sentinel. -/
theorem decLogic_locationOut_of_consistent {c : Byte} (h : ∀ g, parity c g = 0#1) :
    (decLogic c).locationOut = 255#8 := by
  have heven : ∀ g, evenFlag c g = 1#1 := fun g => (Flags.evenFlag_eq_one_iff c g).2 (h g)
  change locLookup (syndrome (evenFlag c .r0) (evenFlag c .c0c1) (evenFlag c .c0c2)) = 255#8
  rw [heven, heven, heven]
  rfl

theorem bit_and_of_getLsbD {w : Nat} (v m : BitVec w) (i : Nat) :
    bit (v &&& m) i = if m.getLsbD i then bit v i else 0#1 := by
  cases hm : m.getLsbD i <;> simp [bit, hm]

/-- 0x2B is the mask of positions 0, 1, 3, 5, which hold the data bits. -/
theorem codewordFor_and_dataMask (d : Nibble) : codewordFor d &&& 0x2B#8 = workingByteFor d := by
  refine eq_of_bit_eq fun i hi => ?_
  rw [bit_and_of_getLsbD]
  interval_cases i <;> simp [codewordFor, workingByteFor]

theorem codewordFor_data_bits (d : Nibble) : bit (codewordFor d) 0 = bit d 0 ∧ bit (codewordFor d) 1 = bit d 1 ∧
    bit (codewordFor d) 3 = bit d 2 ∧ bit (codewordFor d) 5 = bit d 3 := by
  simp [codewordFor]

theorem codewordFor_slots (d : Nibble) : bit (codewordFor d) 2 = bit d 0 ^^^ bit d 1 ^^^ bit d 2 ∧
    bit (codewordFor d) 4 = bit d 0 ^^^ bit d 1 ^^^ bit d 3 ∧
    bit (codewordFor d) 6 = bit d 0 ^^^ bit d 2 ^^^ bit d 3 := by
  simp [codewordFor]

/-- Settles O9: ENCODE delivers R68's codeword (O6), which is valid, spreads its nibble and determines it. -/
theorem encodeCodewordProperties : Obligations.EncodeCodewordProperties := fun d s => by
  obtain ⟨hbit7, hconsistent⟩ := validCodeword_codewordFor d
  obtain ⟨hd0, hd1, hd2, hd3⟩ := codewordFor_data_bits d
  refine ⟨_, EncodeSteps.encodeNextState d s, hbit7, hconsistent,
    ⟨_, exec_verify _ _, decLogic_locationOut_of_consistent hconsistent⟩,
    hd0, hd1, hd2, hd3, codewordFor_and_dataMask d, fun d' t' ht' heq => ?_, codewordFor_slots d⟩
  exact codewordFor_injective ((codewordOut_of_exec_encode ht').symm.trans heq)

end Sys2Proof.Proofs.EncodeCodeword
end

section
/-! The rejection of a DATA byte (R62): which bytes, and what the host reads then. -/

namespace Sys2Proof.Proofs.Rejection

open Sys2Proof.Machine Sys2Proof.Safety Sys2Proof.Proofs.DataByte Sys2Proof.Proofs.EncClosedForm

/-- A DATA byte is 16 or more exactly when one of its bits from 4 up is set. -/
theorem sixteen_le_iff_high_bit (b : Byte) : 16 ≤ b.toNat ↔ ∃ i, 4 ≤ i ∧ i ≤ 7 ∧ b.getLsbD i = true := by
  refine ⟨fun h => ?_, fun ⟨i, hi4, _, hset⟩ => ?_⟩
  · obtain ⟨i, hi4, hset⟩ := Nat.exists_ge_and_testBit_of_ge_two_pow (n := 4) h
    exact ⟨i, hi4, Nat.le_of_lt_succ (BitVec.lt_of_getLsbD hset), hset⟩
  · calc 2 ^ 4 ≤ 2 ^ i := Nat.pow_le_pow_right (by decide) hi4
      _ ≤ b.toNat := Nat.ge_two_pow_of_testBit hset

theorem encFor_reject_iff (b : Byte) : (encFor b).reject = 1#1 ↔ 16 ≤ b.toNat := by
  obtain hlt | hge := Nat.lt_or_ge b.toNat 16
  · simp [encFor_of_lt hlt, hlt]
  · simp [encFor_of_ge hge, hge]

theorem encFor_dataIn (b : Byte) : (encFor b).dataIn = b := by
  unfold encFor
  split <;> rfl

/-- Settles O50: ENC shows its closed form, whose rejected case is a byte from 16 on. -/
theorem rejectedBytesReportNotRepresentable : Obligations.RejectedBytesReportNotRepresentable := by
  refine fun b s => ⟨_, exec_decode_enc b s, encFor_dataIn b,
    (encFor_reject_iff b).trans (sixteen_le_iff_high_bit b), fun h => ?_⟩
  rw [encFor_of_ge ((encFor_reject_iff b).1 h)]
  exact ⟨rfl, rfl, rfl⟩

end Sys2Proof.Proofs.Rejection
end

section
/-! VERIFY's next state (R74 to R77): the parities as XORs of four bits, and the decision table written out. -/

namespace Sys2Proof.Proofs.VerifyState

open Sys2Proof.Machine Sys2Proof.Safety

/-- R76's table, entry by entry. -/
theorem locLookup_eq_ite : ∀ syn : BitVec 3, locLookup syn =
    if syn = 0#3 then 0#8 else if syn = 1#3 then 2#8 else if syn = 2#3 then 4#8
    else if syn = 3#3 then 6#8 else if syn = 4#3 then 1#8 else if syn = 5#3 then 3#8
    else if syn = 6#3 then 5#8 else 255#8 := by
  decide

theorem decLogic_eq_xorFour (c : Byte) : decLogic c =
    { codewordIn := c, settled := true
      qR0 := xorFour c 6 4 2 0, qC0c1 := xorFour c 3 2 1 0, qC0c2 := xorFour c 5 4 1 0
      evenR0 := ~~~ xorFour c 6 4 2 0, evenC0c1 := ~~~ xorFour c 3 2 1 0, evenC0c2 := ~~~ xorFour c 5 4 1 0
      syn := ~~~ xorFour c 6 4 2 0 ++ ~~~ xorFour c 3 2 1 0 ++ ~~~ xorFour c 5 4 1 0
      locationOut := locLookup (~~~ xorFour c 6 4 2 0 ++ ~~~ xorFour c 3 2 1 0 ++ ~~~ xorFour c 5 4 1 0) } := by
  simp only [decLogic, syndrome, Flags.evenFlag_eq_not_parity, Flags.parity_r0, Flags.parity_c0c1, Flags.parity_c0c2]

/-- Settles O16: an evaluation replaces DEC by its function of the byte, whose output is the table's entry. -/
theorem verifyNextState : Obligations.VerifyNextState := fun c s => by
  rw [exec_verify, State.evaluateDec, Dec.evaluate_eq_decLogic, decLogic_eq_xorFour, locLookup_eq_ite]
  rfl

end Sys2Proof.Proofs.VerifyState
end

section
/-! VERIFY's output through the XOR `f` of R79's form 2. As a group holds the positions that have its index bit clear, the
three parities side by side are `f`: additive in the byte, and `7 ^ p` for the byte with bit `p` alone. -/

namespace Sys2Proof.Proofs.FlipIndex

open Sys2Proof.Machine Sys2Proof.Safety

/-- R79's pattern. -/
theorem mem_members_iff_index_bit_clear : ∀ i, i < 8 → (i ∈ ParityGroup.members .r0 ↔ i.testBit 0 = false) ∧
    (i ∈ ParityGroup.members .c0c2 ↔ i.testBit 1 = false) ∧ (i ∈ ParityGroup.members .c0c1 ↔ i.testBit 2 = false) := by
  decide

/-- The recomputed parities of R74 in the order of the index bits that their groups have clear. -/
def flipIndex (c : Byte) : Nat := (parity c .c0c1 ++ parity c .c0c2 ++ parity c .r0).toNat

@[simp] theorem flipIndex_xor (a b : Byte) : flipIndex (a ^^^ b) = flipIndex a ^^^ flipIndex b := by
  simp only [flipIndex, Codewords.parity_xor, ← BitVec.xor_append, BitVec.toNat_xor]

theorem flipIndex_oneAt : ∀ p, p < 8 → flipIndex (oneAt p) = 7 ^^^ p := by
  decide

theorem flipIndex_of_valid {c : Byte} (h : ValidCodeword c) : flipIndex c = 0 := by
  obtain ⟨-, hconsistent⟩ := h
  rw [flipIndex, hconsistent, hconsistent, hconsistent]
  rfl

/-- The output of R79's form 2 for the XOR `f`. -/
def locationOfIndex (f : Nat) : Byte := if f = 0 then 255#8 else BitVec.ofNat 8 (7 ^^^ f)

theorem locationOfIndex_zero : locationOfIndex 0 = 255#8 := rfl

theorem locationOfIndex_of_ne_zero {f : Nat} (h : f ≠ 0) : locationOfIndex f = BitVec.ofNat 8 (7 ^^^ f) := if_neg h

/-- A position XORed onto 7 is the location of itself. -/
theorem locationOfIndex_seven_xor (p : Nat) :
    locationOfIndex (7 ^^^ p) = if p = 7 then 255#8 else BitVec.ofNat 8 p := by
  obtain rfl | hne := eq_or_ne p 7
  · rfl
  · rw [if_neg hne, locationOfIndex_of_ne_zero (Nat.xor_ne_zero_iff.2 hne.symm), Nat.xor_xor_cancel_left]

/-- R76's table is R79's form 1. -/
theorem locLookup_syndrome : ∀ evenR0 evenC0c1 evenC0c2 : Bit, locLookup (syndrome evenR0 evenC0c1 evenC0c2) =
    if evenC0c1 ++ evenC0c2 ++ evenR0 = 7#3 then 255#8 else (evenC0c1 ++ evenC0c2 ++ evenR0).setWidth 8 := by
  decide

/-- The even flags are the negated parities, so form 1's `k` is `7 ^ f`. -/
theorem ite_not_eq_locationOfIndex : ∀ f : BitVec 3,
    (if ~~~ f = 7#3 then 255#8 else (~~~ f).setWidth 8) = locationOfIndex f.toNat := by
  decide

theorem decLogic_locationOut (c : Byte) : (decLogic c).locationOut = locationOfIndex (flipIndex c) :=
  calc (decLogic c).locationOut
    _ = locLookup (syndrome (~~~ parity c .r0) (~~~ parity c .c0c1) (~~~ parity c .c0c2)) := rfl
    _ = locationOfIndex (flipIndex c) := by
        rw [locLookup_syndrome, ← BitVec.not_append, ← BitVec.not_append, ite_not_eq_locationOfIndex, flipIndex]

theorem getLsbD_ite_xor_oneAt (c b : Byte) (i j : Nat) :
    (if c.getLsbD i then b ^^^ oneAt i else b).getLsbD j = (b.getLsbD j ^^ (decide (i = j) && c.getLsbD i)) := by
  cases hset : c.getLsbD i with
  | true =>
    have hlt : i < 8 := BitVec.lt_of_getLsbD hset
    rw [if_pos rfl, BitVec.getLsbD_xor, oneAt, BitVec.getLsbD_twoPow, decide_eq_true hlt, Bool.true_and, Bool.and_true]
  | false => simp

/-- After `n` positions the XOR of the set bits has the bits below `n`. -/
theorem getLsbD_foldl_xor_oneAt (c : Byte) (n j : Nat) :
    ((List.range n).foldl (fun b i => if c.getLsbD i then b ^^^ oneAt i else b) 0#8).getLsbD j =
      (decide (j < n) && c.getLsbD j) := by
  induction n with
  | zero => simp
  | succ n ih =>
    rw [List.range_succ, List.foldl_concat, getLsbD_ite_xor_oneAt, ih]
    obtain hlt | rfl | hgt := Nat.lt_trichotomy j n
    · simp [hlt, hlt.ne', Nat.lt_succ_of_lt hlt]
    · simp
    · simp [hgt.ne, hgt.not_gt, Nat.not_lt.2 (Nat.succ_le_of_lt hgt)]

/-- A byte is the XOR of its set bits. -/
theorem foldl_xor_oneAt (c : Byte) :
    (List.range 8).foldl (fun b i => if c.getLsbD i then b ^^^ oneAt i else b) 0#8 = c := by
  refine BitVec.eq_of_getLsbD_eq fun j hj => ?_
  rw [getLsbD_foldl_xor_oneAt, decide_eq_true hj, Bool.true_and]

/-- Form 2's XOR over the set positions: each of them adds its own `7 ^ i`. -/
theorem foldl_xor_eq_flipIndex (c : Byte) :
    (List.range 8).foldl (fun f i => if c.getLsbD i then f ^^^ (7 ^^^ i) else f) 0 = flipIndex c := by
  conv_rhs => rw [← foldl_xor_oneAt c]
  refine List.foldl_hom flipIndex (init := 0#8) fun b i => ?_
  split
  · next hset => rw [flipIndex_xor, flipIndex_oneAt i (BitVec.lt_of_getLsbD hset)]
  · rfl

/-- Settles O17: form 1 is the table read by the flags in another order, and form 2's XOR is the parities side by side. -/
theorem verifyClosedForms : Obligations.VerifyClosedForms := by
  refine ⟨mem_members_iff_index_bit_clear, fun c s => ⟨_, exec_verify c s, locLookup_syndrome _ _ _, ?_⟩⟩
  dsimp only
  rw [foldl_xor_eq_flipIndex]
  exact decLogic_locationOut c

end Sys2Proof.Proofs.FlipIndex
end

section
/-! VERIFY of a valid codeword with some bits flipped (R80 to R83): a codeword adds nothing to the index, so the output is
the location of the XOR of the flipped positions' indices. -/

namespace Sys2Proof.Proofs.FlippedCodeword

open Sys2Proof.Machine Sys2Proof.Safety Sys2Proof.Proofs.FlipIndex

/-- R81: position 7 has the index 0. -/
theorem locationOut_xor_bit_seven (c : Byte) : (decLogic (c ^^^ 0x80#8)).locationOut = (decLogic c).locationOut := by
  have hindex : flipIndex 0x80#8 = 0 := flipIndex_oneAt 7 (by decide)
  rw [decLogic_locationOut, decLogic_locationOut, flipIndex_xor, hindex, Nat.xor_zero]

section
variable {c : Byte} (h : ValidCodeword c)
include h

/-- The output depends on the error pattern alone. -/
theorem locationOut_valid_xor (e : Byte) : (decLogic (c ^^^ e)).locationOut = locationOfIndex (flipIndex e) := by
  rw [decLogic_locationOut, flipIndex_xor, flipIndex_of_valid h, Nat.zero_xor]

theorem locationOut_valid : (decLogic c).locationOut = 255#8 := by
  rw [decLogic_locationOut, flipIndex_of_valid h, locationOfIndex_zero]

theorem locationOut_one_flip {p : Nat} (hp : p < 7) :
    (decLogic (c ^^^ oneAt p)).locationOut = BitVec.ofNat 8 p := by
  rw [locationOut_valid_xor h, flipIndex_oneAt p (by omega), locationOfIndex_seven_xor, if_neg (by omega)]

theorem locationOut_two_flips {p q : Nat} (hp : p < 8) (hq : q < 8) (hne : p ≠ q) :
    (decLogic (c ^^^ oneAt p ^^^ oneAt q)).locationOut = BitVec.ofNat 8 (7 ^^^ p ^^^ q) := by
  have hindex : flipIndex (oneAt p ^^^ oneAt q) = p ^^^ q := by
    rw [flipIndex_xor, flipIndex_oneAt p hp, flipIndex_oneAt q hq, Nat.xor_comm 7 p, Nat.xor_assoc,
      Nat.xor_xor_cancel_left]
  rw [BitVec.xor_assoc, locationOut_valid_xor h, hindex, locationOfIndex_of_ne_zero (Nat.xor_ne_zero_iff.2 hne),
    Nat.xor_assoc]

theorem locationOut_three_flips {p q r : Nat} (hp : p < 8) (hq : q < 8) (hr : r < 8) :
    (decLogic (c ^^^ oneAt p ^^^ oneAt q ^^^ oneAt r)).locationOut =
      if p ^^^ q ^^^ r = 7 then 255#8 else BitVec.ofNat 8 (p ^^^ q ^^^ r) := by
  have hindex : flipIndex (oneAt p ^^^ (oneAt q ^^^ oneAt r)) = 7 ^^^ (p ^^^ q ^^^ r) := by
    rw [flipIndex_xor, flipIndex_xor, flipIndex_oneAt p hp, flipIndex_oneAt q hq, flipIndex_oneAt r hr,
      Nat.xor_comm 7 q, Nat.xor_assoc q, Nat.xor_xor_cancel_left, Nat.xor_assoc, Nat.xor_assoc]
  rw [BitVec.xor_assoc, BitVec.xor_assoc, locationOut_valid_xor h, hindex, locationOfIndex_seven_xor]

end

/-- Of two flips below 7, neither is named and the sentinel is not given. -/
theorem seven_xor_xor_ne : ∀ p, p < 7 → ∀ q, q < 7 →
    BitVec.ofNat 8 (7 ^^^ p ^^^ q) ≠ 255#8 ∧ BitVec.ofNat 8 (7 ^^^ p ^^^ q) ≠ BitVec.ofNat 8 p ∧
      BitVec.ofNat 8 (7 ^^^ p ^^^ q) ≠ BitVec.ofNat 8 q := by
  decide

/-- Settles O18: the codeword has index 0, bit `p` has index `7 ^ p`, and bit 7 changes no index. -/
theorem singleErrorIsLocated : Obligations.SingleErrorIsLocated := fun _ _ h =>
  ⟨⟨_, exec_verify _ _, locationOut_valid h⟩, fun _ hp => ⟨_, exec_verify _ _, locationOut_one_flip h hp⟩,
    ⟨_, exec_verify _ _, (locationOut_xor_bit_seven _).trans (locationOut_valid h)⟩⟩

/-- Settles O20: a flip of bit 7 changes no index. -/
theorem bitSevenBlindSpot : Obligations.BitSevenBlindSpot := fun c _ =>
  ⟨_, _, exec_verify _ _, exec_verify _ _, (locationOut_xor_bit_seven c).symm,
    fun h => (locationOut_xor_bit_seven c).trans (locationOut_valid h)⟩

/-- Settles O21: the output is the location of the flips' index, the same for every valid codeword. -/
theorem severalFlipsAreMislocatedAsStated : Obligations.SeveralFlipsAreMislocatedAsStated := by
  refine fun s c h => ⟨fun c' e h' => ⟨_, _, exec_verify _ _, exec_verify _ _, ?_⟩,
    fun p q hp hq hne => ⟨_, exec_verify _ _, ?_⟩, fun q hq => ⟨_, exec_verify _ _, ?_⟩,
    fun p q r hp hq hr _ _ _ => ⟨_, exec_verify _ _, ?_⟩, rfl, rfl⟩
  · exact (locationOut_valid_xor h e).trans (locationOut_valid_xor h' e).symm
  · have hlocation := locationOut_two_flips h (p := p) (q := q) (by omega) (by omega) hne
    rw [State.evaluateDec_dec, Dec.evaluate_eq_decLogic, hlocation]
    exact ⟨rfl, seven_xor_xor_ne p hp q hq⟩
  · have hlocation := locationOut_two_flips h (p := 7) (q := q) (by omega) (by omega) (by omega)
    rwa [Nat.xor_self, Nat.zero_xor] at hlocation
  · exact locationOut_three_flips h (by omega) (by omega) (by omega)

/-- Settles O22: the 256 bytes counted by their location, which no earlier input changes. -/
theorem eachLocationFromThirtyTwoBytes : Obligations.EachLocationFromThirtyTwoBytes := by
  intro v d
  simp only [Dec.evaluate_eq_decLogic]
  revert v
  decide

end Sys2Proof.Proofs.FlippedCodeword
end

section
/-! What the host samples of each settled unit (R86, R87): from DEC always a location, from ENC the codeword or the one
failure. -/

namespace Sys2Proof.Proofs.OnlyException

open Sys2Proof.Machine Sys2Proof.Safety Sys2Proof.Proofs.EncClosedForm

/-- DEC computes its closed form, as `evaluate_eq_encFor` says of ENC: the table is read by R79's form 1. -/
theorem decLogic_eq_decFor (c : Byte) : decLogic c = decFor c := by
  have hloc : locLookup (syndrome (~~~ xorFour c 6 4 2 0) (~~~ xorFour c 3 2 1 0) (~~~ xorFour c 5 4 1 0)) =
      locationFor c := FlipIndex.locLookup_syndrome _ _ _
  rw [VerifyState.decLogic_eq_xorFour, decFor, ← hloc]
  rfl

theorem sample_decLogic (c : Byte) : (decLogic c).sample = .ok (locationFor c) := by
  rw [decLogic_eq_decFor]
  exact Dec.sample_eq_ok rfl

theorem codewordOf_sample_encFor (b : Byte) : (encFor b).sample.map codewordOf =
    .ok (if b.toNat < 16 then .ok (codewordFor (b.setWidth 4)) else .error .notRepresentable) := by
  obtain hlt | hge := Nat.lt_or_ge b.toNat 16
  · rw [encFor_of_lt hlt, Enc.sample_eq_ok rfl, if_pos hlt]
    rfl
  · rw [encFor_of_ge hge, Enc.sample_eq_ok rfl, if_neg (Nat.not_lt.2 hge)]
    rfl

/-- Settles O26: an evaluation of DEC leaves ENC alone, and each unit ends settled on its closed form. -/
theorem onlyExceptionIsNotRepresentable : Obligations.OnlyExceptionIsNotRepresentable := fun s =>
  ⟨fun c => ⟨_, exec_verify c s, rfl, sample_decLogic c⟩, fun b => ⟨_, exec_decode_enc b s, codewordOf_sample_encFor b⟩⟩

end Sys2Proof.Proofs.OnlyException
end

section
/-! What VERIFY's sentinel hides (R108): a valid codeword with three bits changed can be another valid codeword. -/

namespace Sys2Proof.Proofs.HiddenErrors

open Sys2Proof.Machine Sys2Proof.Safety Sys2Proof.Proofs.FlippedCodeword

/-- An error pattern's weight is the distance it puts between a byte and its corrupted copy. -/
theorem distance_xor_right (c e : Byte) : distance c (c ^^^ e) = distance e 0#8 := by
  have hdiff : c ^^^ (c ^^^ e) = e := by rw [← BitVec.xor_assoc, BitVec.xor_self, BitVec.zero_xor]
  rw [Codewords.distance_eq_distance_zero, hdiff]

theorem locationOut_valid_xor_valid {c e : Byte} (hc : ValidCodeword c) (he : ValidCodeword e) :
    (decLogic (c ^^^ e)).locationOut = 255#8 :=
  locationOut_valid (Codewords.validCodeword_xor hc he)

/-- Settles O25: bit 7 is never read, and changing the three bits of the codeword 0x16 (R82) leads to a codeword. -/
theorem sentinelIsNoProofOfIntegrity : Obligations.SentinelIsNoProofOfIntegrity := fun _ c h =>
  ⟨⟨_, exec_verify _ _, (locationOut_xor_bit_seven c).trans (locationOut_valid h)⟩,
    codewordFor 2#4, (distance_xor_right c _).trans (by decide), EncClosedForm.codewordFor_bit_seven _,
    _, exec_verify _ _, locationOut_valid_xor_valid h (Codewords.validCodeword_codewordFor _)⟩

end Sys2Proof.Proofs.HiddenErrors
end

section
/-! ENCODE's rejected class as an operation (R88), and how its outputs compare with those of a nibble that is encoded
(R106). -/

namespace Sys2Proof.Proofs.RejectedClass

open Sys2Proof.Machine Sys2Proof.Safety Sys2Proof.Proofs.DataByte Sys2Proof.Proofs.EncClosedForm

theorem highNibble_dataByte (z d : Nibble) : highNibble (dataByte z d) = z :=
  BitVec.extractLsb'_append_eq_left

/-- R53: a well-formed rejected input is a byte that R45 does not allow. -/
theorem sixteen_le_dataByte {z : Nibble} (hz : z ≠ 0#4) (d : Nibble) : 16 ≤ (dataByte z d).toNat := by
  rwa [← Nat.not_lt, ← highNibble_eq_zero_iff, highNibble_dataByte]

/-- All that a rejected input can do. -/
theorem exec_encodeReject_of_ne_zero {z : Nibble} (hz : z ≠ 0#4) (d : Nibble) (s : State) :
    exec (.encodeReject z d) s = .next
      { s with enc := { dataIn := dataByte z d, settled := true, reject := 1#1, steps := none
                        codewordOut := 0x00#8, rejectOut := 1#1 } } := by
  rw [exec_encodeReject, evaluateEnc_eq_encFor, encFor_of_ge (sixteen_le_dataByte hz d)]

theorem codewordFor_zero : codewordFor 0#4 = 0x00#8 := by
  decide

/-- Settles O28: 0x00 is both what a rejection shows and the codeword of nibble 0; the samples differ in `reject_out`. -/
theorem rejectedCodewordLooksLikeNibbleZero : Obligations.RejectedCodewordLooksLikeNibbleZero := by
  refine fun _ d s hz => ⟨_, _, exec_encodeReject_of_ne_zero hz d s, EncodeSteps.encodeNextState 0#4 s, ?_⟩
  rw [codewordFor_zero]
  exact ⟨rfl, rfl, rfl, rfl, rfl, rfl⟩

end Sys2Proof.Proofs.RejectedClass
end

section
/-! The decoder and the encoder are each other's inverse on well-formed operations (R53, R56). -/

namespace Sys2Proof.Proofs.RoundTrip

open Sys2Proof.Machine Sys2Proof.Proofs.DataByte Sys2Proof.Proofs.RejectedClass

theorem lowNibble_dataByte (z d : Nibble) : (dataByte z d).extractLsb' 0 4 = d :=
  BitVec.extractLsb'_append_eq_right

/-- R56's mask reads `z` alone. -/
theorem dataByte_and_highMask_eq_zero_iff (z d : Nibble) : dataByte z d &&& 0xF0#8 = 0#8 ↔ z = 0#4 := by
  rw [and_highMask_eq_zero_iff, highNibble_dataByte]

theorem decodeData_legal (d : Nibble) : decodeData (dataByte 0#4 d) = .encode d := by
  rw [decodeData_of_mask ((dataByte_and_highMask_eq_zero_iff _ d).2 rfl), lowNibble_dataByte]

theorem decodeData_rejected {z : Nibble} (hz : z ≠ 0#4) (d : Nibble) :
    decodeData (dataByte z d) = .encodeReject z d := by
  rw [decodeData_of_not_mask (mt (dataByte_and_highMask_eq_zero_iff z d).1 hz), lowNibble_dataByte,
    ← highNibble, highNibble_dataByte]

theorem decode_drive {i : Instr} (h : i.wellFormed = true) : decode i.drive = i := by
  cases i with
  | encode d => exact decodeData_legal d
  | encodeReject z d => exact decodeData_rejected (bne_iff_ne.1 h) d
  | verify c => rfl

theorem driveOfBytes_encode (i : Instr) : driveOfBytes (encode i) = .ok i.drive := by
  cases i with
  | encode d => exact Laws.WrittenForm.encode d
  | encodeReject z d => exact Laws.WrittenForm.encodeReject z d
  | verify c => exact Laws.WrittenForm.verify c

/-- What ENC's input byte stands for is a well-formed operation, and the byte is that operation's own. -/
theorem decodeData_wellFormed_and_drive (b : Byte) :
    (decodeData b).wellFormed = true ∧ (decodeData b).drive = ⟨.enc, b⟩ := by
  by_cases hmask : b &&& 0xF0#8 = 0#8
  · have hhigh : b.extractLsb' 4 4 = 0#4 := (and_highMask_eq_zero_iff b).1 hmask
    have hbyte : dataByte 0#4 (b.extractLsb' 0 4) = b := hhigh ▸ dataByte_nibbles b
    rw [decodeData_of_mask hmask]
    exact ⟨rfl, congrArg (Drive.mk .enc) hbyte⟩
  · have hhigh : b.extractLsb' 4 4 ≠ 0#4 := mt (and_highMask_eq_zero_iff b).2 hmask
    rw [decodeData_of_not_mask hmask]
    exact ⟨bne_iff_ne.2 hhigh, congrArg (Drive.mk .enc) (dataByte_nibbles b)⟩

theorem decode_wellFormed_and_drive (d : Drive) : (decode d).wellFormed = true ∧ (decode d).drive = d := by
  obtain ⟨u, b⟩ := d
  cases u with
  | enc => exact decodeData_wellFormed_and_drive b
  | dec => exact ⟨rfl, rfl⟩

/-- Settles O4: the written form is the drive with its unit's number, and the decoder gives back each row's operands. -/
theorem decodeOfEncodeIsIdentity : Obligations.DecodeOfEncodeIsIdentity := fun i h => by
  refine ⟨?_, decode_drive h⟩
  rw [decodeBytes, driveOfBytes_encode, Except.map, decode_drive h]

/-- Settles O5: an operation is decoded from its own drive (O4), so two operations with one drive are one. -/
theorem everyDriveIsOneOperation : Obligations.EveryDriveIsOneOperation := fun d => by
  obtain ⟨hwf, hdrive⟩ := decode_wellFormed_and_drive d
  exact ⟨hwf, hdrive, fun i hi hd => hd ▸ (decode_drive hi).symm⟩

end Sys2Proof.Proofs.RoundTrip
end

section
/-! One evaluation by its closed form, on either unit. A step is one of these or, with nothing pending, no change; a run is
one after the other (R14, R103). -/

namespace Sys2Proof.Proofs.Evaluation

open Sys2Proof.Machine Sys2Proof.Safety Sys2Proof.Proofs.EncClosedForm

/-- The block after an evaluation: the driven unit shows its closed form, and the rest is as before. -/
def settledOn (d : Drive) (s : State) : State :=
  match d.unit with
  | .enc => { s with enc := encFor d.byte }
  | .dec => { s with dec := decFor d.byte }

@[simp] theorem settledOn_pending (d : Drive) (s : State) : (settledOn d s).pending = s.pending := by
  unfold settledOn
  split <;> rfl

theorem exec_verify_eq_decFor (c : Byte) (s : State) : exec (.verify c) s = .next { s with dec := decFor c } := by
  rw [exec_verify, State.evaluateDec, Dec.evaluate_eq_decLogic, OnlyException.decLogic_eq_decFor]

theorem exec_decode (d : Drive) (s : State) : exec (decode d) s = .next (settledOn d s) := by
  obtain ⟨u, b⟩ := d
  cases u with
  | enc => exact exec_decode_enc b s
  | dec => exact exec_verify_eq_decFor b s

theorem step_of_nil {s : State} (h : s.pending = []) : step s = .next s := by
  simp only [step, State.takeDrive, h]

theorem step_of_cons {s : State} {d : Drive} {rest : List Drive} (h : s.pending = d :: rest) :
    step s = exec (decode d) { s with pending := rest } := by
  simp only [step, State.takeDrive, h]

theorem step_eq_settledOn {s : State} {d : Drive} {rest : List Drive} (h : s.pending = d :: rest) :
    step s = .next (settledOn d { s with pending := rest }) :=
  (step_of_cons h).trans (exec_decode d _)

theorem step_offer (d : Drive) (s : State) : step (s.offer d) = exec (decode d) s := rfl

theorem encCoherent_encFor (b : Byte) : EncCoherent (encFor b) := fun _ => by
  rw [Rejection.encFor_dataIn]

theorem decCoherent_decFor (c : Byte) : DecCoherent (decFor c) := fun _ => rfl

theorem coherent_settledOn (d : Drive) {s : State} (h : Coherent s) : Coherent (settledOn d s) := by
  obtain ⟨henc, hdec⟩ := h
  unfold settledOn
  split
  · exact ⟨encCoherent_encFor _, hdec⟩
  · exact ⟨henc, decCoherent_decFor _⟩

/-- Settles O29: the unit that evaluates ends at its closed form, and the other one is as it was. -/
theorem stepKeepsUnitsCoherent : Obligations.StepKeepsUnitsCoherent := fun s t hs hstep => by
  cases hp : s.pending with
  | nil =>
    obtain rfl := Host.Outcome.next.inj ((step_of_nil hp).symm.trans hstep)
    exact hs
  | cons d rest =>
    obtain rfl := Host.Outcome.next.inj ((step_eq_settledOn hp).symm.trans hstep)
    exact coherent_settledOn d (s := { s with pending := rest }) hs

/-- Settles O30: a coherent unit that is not settled promises nothing. -/
theorem resetIsCoherent : Obligations.ResetIsCoherent :=
  ⟨⟨nofun, nofun⟩, rfl, rfl⟩

/-- Settles O31: the pending input decodes to the operation whose drive it is (O4). -/
theorem stepRunsDecodedInput : Obligations.StepRunsDecodedInput := fun s i rest hwf hp => by
  rw [step_of_cons hp, RoundTrip.decode_drive hwf]

/-- A word that decodes writes down the drive of its operation. -/
theorem driveOfBytes_of_decodeTableWord {nbits w : Nat} {i : Instr} (h : decodeTableWord nbits w = some i) :
    ∃ d, driveOfBytes (tableWordBytes nbits w) = .ok d ∧ decode d = i := by
  rw [decodeTableWord, decodeBytes] at h
  cases hd : driveOfBytes (tableWordBytes nbits w) with
  | ok d => exact ⟨d, rfl, by simpa [hd, Except.map, Except.toOption] using h⟩
  | error e => simp [hd, Except.map, Except.toOption] at h

/-- Settles O32: the word's drive is put in front, and the step takes it off again. -/
theorem stepRunsTableWord : Obligations.StepRunsTableWord := fun s nbits w i h => by
  obtain ⟨d, hd, rfl⟩ := driveOfBytes_of_decodeTableWord h
  have hoffer : s.withFetchWord nbits w = s.offer d := by
    simp only [State.withFetchWord, State.offerBytes, hd]
  rw [hoffer, step_offer]

/-- Settles O33: each step answers the state itself. -/
theorem unitsNeverActAlone : Obligations.UnitsNeverActAlone := fun s n hp => by
  induction n with
  | zero => rfl
  | succ n ih => exact (run_succ_of_next (step_of_nil hp)).trans ih

/-- Settles O34: with nothing pending the state itself, else the evaluation of the first input. -/
theorem everyStepCompletes : Obligations.EveryStepCompletes := fun s => by
  cases hp : s.pending with
  | nil => exact ⟨s, step_of_nil hp, hp⟩
  | cons d rest => exact ⟨_, step_eq_settledOn hp, settledOn_pending d _⟩

/-- Settles O38: two machines with one queue evaluate one byte on one unit, and neither evaluation reads the other unit. -/
theorem noPathBetweenTheUnits : Obligations.NoPathBetweenTheUnits := fun s s' hpending => by
  cases hp : s.pending with
  | nil => exact ⟨s, s', step_of_nil hp, step_of_nil (hpending ▸ hp), id, id⟩
  | cons d rest =>
    refine ⟨_, _, step_eq_settledOn hp, step_eq_settledOn (hpending ▸ hp), ?_⟩
    obtain ⟨u, b⟩ := d
    cases u with
    | enc => exact ⟨id, fun _ => rfl⟩
    | dec => exact ⟨fun _ => rfl, id⟩

theorem lastFor_cons_of_ne {u v : UnitName} (h : v ≠ u) (b : Byte) (ds : List Drive) :
    lastFor u (⟨v, b⟩ :: ds) = lastFor u ds := by
  simp [lastFor, h]

/-- A unit driven with `b` first ends on the later inputs' last byte, or on `b` if there is none. -/
theorem getD_map_lastFor_cons {α : Type} (f : Byte → α) (u : UnitName) (b : Byte) (ds : List Drive) (a : α) :
    ((lastFor u (⟨u, b⟩ :: ds)).map f).getD a = ((lastFor u ds).map f).getD (f b) := by
  have hcons : lastFor u (⟨u, b⟩ :: ds) = some ((lastFor u ds).getD b) := by
    simp [lastFor, List.getLast?_cons]
  rw [hcons]
  cases lastFor u ds <;> rfl

/-- Where a run over the pending inputs ends. -/
def settledOnLast (s : State) : State :=
  { enc := ((lastFor .enc s.pending).map encFor).getD s.enc
    dec := ((lastFor .dec s.pending).map decFor).getD s.dec
    pending := [] }

theorem settledOnLast_of_nil {s : State} (h : s.pending = []) : settledOnLast s = s := by
  obtain ⟨enc, dec, pending⟩ := s
  obtain rfl : pending = [] := h
  rfl

/-- Evaluating the first input does not change where the run ends: a later input of that unit overrides it. -/
theorem settledOnLast_settledOn {s : State} {d : Drive} {rest : List Drive} (h : s.pending = d :: rest) :
    settledOnLast (settledOn d { s with pending := rest }) = settledOnLast s := by
  obtain ⟨u, b⟩ := d
  cases u with
  | enc =>
    have hother : lastFor .dec (⟨.enc, b⟩ :: rest) = lastFor .dec rest := lastFor_cons_of_ne (by decide) b rest
    simp only [settledOnLast, settledOn, h, getD_map_lastFor_cons, hother]
  | dec =>
    have hother : lastFor .enc (⟨.dec, b⟩ :: rest) = lastFor .enc rest := lastFor_cons_of_ne (by decide) b rest
    simp only [settledOnLast, settledOn, h, getD_map_lastFor_cons, hother]

theorem run_eq_settledOnLast (n : Nat) (s : State) (hn : s.pending.length ≤ n) :
    Host.Core.run core n s = .next (settledOnLast s) := by
  induction n generalizing s with
  | zero => rw [settledOnLast_of_nil (List.length_eq_zero_iff.1 (Nat.le_zero.1 hn))]; rfl
  | succ n ih =>
    cases hp : s.pending with
    | nil => rw [settledOnLast_of_nil hp]; exact unitsNeverActAlone s (n + 1) hp
    | cons d rest =>
      have hrest : (settledOn d { s with pending := rest }).pending.length ≤ n := by
        rw [settledOn_pending]
        simpa [hp] using hn
      rw [← settledOnLast_settledOn hp]
      exact (run_succ_of_next (step_eq_settledOn hp)).trans (ih _ hrest)

/-- Settles O39: each step evaluates the first input, which leaves the end of the run as it is. -/
theorem runSettlesEachUnitOnItsLastInput : Obligations.RunSettlesEachUnitOnItsLastInput :=
  fun s n hn => run_eq_settledOnLast n s hn

end Sys2Proof.Proofs.Evaluation
end

section
/-! The three operations from one state: a rejection and the recovery from it (R62, R90), the way from ENCODE to VERIFY (R16,
R80), and what an evaluation reads and leaves alone (R22, R37). -/

namespace Sys2Proof.Proofs.Operations

open Sys2Proof.Machine Sys2Proof.Safety Sys2Proof.Proofs.EncClosedForm Sys2Proof.Proofs.Evaluation

/-- Settles O8: a non-zero high nibble makes a byte that ENC's closed form rejects. -/
theorem rejectedInputNextState : Obligations.RejectedInputNextState :=
  fun _ d s hz => RejectedClass.exec_encodeReject_of_ne_zero hz d s

/-- Settles O27: the rejection changes ENC alone, and ENCODE writes every field of ENC again. -/
theorem rejectionLeavesNoTrace : Obligations.RejectionLeavesNoTrace := fun _ d d' s hz =>
  ⟨_, RejectedClass.exec_encodeReject_of_ne_zero hz d s, rfl,
    _, EncodeSteps.encodeNextState d' _, EncodeSteps.encodeNextState d' s, rfl⟩

/-- A flip of any position: that of bit 7 has the index 0, so it reads as no flip. -/
theorem locationOut_flip_of_valid {c : Byte} (h : ValidCodeword c) {p : Nat} (hp : p < 8) :
    (decLogic (c ^^^ oneAt p)).locationOut = if p = 7 then 255#8 else BitVec.ofNat 8 p := by
  rw [FlippedCodeword.locationOut_valid_xor h, FlipIndex.flipIndex_oneAt p hp, FlipIndex.locationOfIndex_seven_xor]

/-- Settles O19: ENCODE delivers a valid codeword, and VERIFY locates a flip in it and leaves ENC alone. -/
theorem encodeFlipVerifyLocates : Obligations.EncodeFlipVerifyLocates := fun d s => by
  have hvalid : ValidCodeword (codewordFor d) := Codewords.validCodeword_codewordFor d
  exact ⟨_, EncodeSteps.encodeNextState d s,
    ⟨_, exec_verify _ _, FlippedCodeword.locationOut_valid hvalid, rfl⟩,
    fun _ hp => ⟨_, exec_verify _ _, locationOut_flip_of_valid hvalid hp, rfl⟩⟩

theorem evaluateEnc_dataIn (b : Byte) (s : State) : (s.evaluateEnc b).enc.dataIn = b := by
  rw [evaluateEnc_eq_encFor, Rejection.encFor_dataIn]

theorem evaluateEnc_evaluateEnc (b : Byte) (s : State) : (s.evaluateEnc b).evaluateEnc b = s.evaluateEnc b := by
  simp only [evaluateEnc_eq_encFor]

/-- Settles O35: an evaluation touches its own unit, and it reads nothing that the same evaluation before it wrote. -/
theorem operationsHaveNoSideEffect : Obligations.OperationsHaveNoSideEffect := fun s z d c =>
  ⟨s.evaluateEnc (dataByte 0#4 d), s.evaluateEnc (dataByte z d), s.evaluateDec c,
    ⟨exec_encode d s, rfl, rfl, evaluateEnc_dataIn _ s, congrArg Host.Outcome.next (evaluateEnc_evaluateEnc _ s)⟩,
    ⟨exec_encodeReject z d s, rfl, rfl, evaluateEnc_dataIn _ s, congrArg Host.Outcome.next (evaluateEnc_evaluateEnc _ s)⟩,
    ⟨exec_verify c s, rfl, rfl, rfl, rfl⟩⟩

/-- Settles O36: a unit ends at its closed form of the byte, which no state has a part in. -/
theorem outputsForgetEarlierInputs : Obligations.OutputsForgetEarlierInputs := fun s s' b =>
  ⟨_, _, _, _, exec_decode_enc b s, exec_decode_enc b s', rfl,
    exec_decode ⟨.dec, b⟩ s, exec_decode ⟨.dec, b⟩ s', rfl⟩

/-- Settles O37: the two evaluations write different units, and neither reads the other's. -/
theorem encAndDecEvaluationsCommute : Obligations.EncAndDecEvaluationsCommute := fun s b c =>
  ⟨_, _, { s with enc := encFor b, dec := decFor c },
    exec_decode_enc b s, exec_verify_eq_decFor c _, exec_verify_eq_decFor c s, exec_decode_enc b _, rfl, rfl, rfl⟩

end Sys2Proof.Proofs.Operations
end

section
/-! The spec's own sample words and corner cases (R56, R71, R84): literal rows, each computed. -/

namespace Sys2Proof.Proofs.SampleRows

open Sys2Proof.Machine Sys2Proof.Safety

/-- Settles O1: six words, each decoded by computation. -/
theorem sampleWordsDecode : Obligations.SampleWordsDecode :=
  ⟨by decide, by decide, by decide, by decide, by decide, by decide⟩

/-- R71: input, `codeword_out`, `reject_out`. -/
def encodeRows : List (Byte × Byte × Bit) :=
  [(0x00#8, 0x00#8, 0#1), (0x0F#8, 0x7F#8, 0#1), (0x01#8, 0x55#8, 0#1), (0x0E#8, 0x2A#8, 0#1),
    (0x10#8, 0x00#8, 1#1), (0x80#8, 0x00#8, 1#1), (0xF0#8, 0x00#8, 1#1), (0xFF#8, 0x00#8, 1#1), (0x1A#8, 0x00#8, 1#1)]

theorem encFor_of_mem_encodeRows : ∀ row ∈ encodeRows,
    ((encFor row.1).codewordOut, (encFor row.1).rejectOut) = row.2 :=
  List.map_inj_left.1 (by decide)

/-- R84: input, `location_out`. -/
def verifyRows : List (Byte × Byte) :=
  [(0x00#8, 255#8), (0x80#8, 255#8), (0xFF#8, 255#8), (0x01#8, 0#8), (0x40#8, 6#8), (0x0C#8, 6#8), (0x03#8, 6#8),
    (0x16#8, 255#8)]

theorem locationFor_of_mem_verifyRows : ∀ row ∈ verifyRows, locationFor row.1 = row.2 :=
  List.map_inj_left.1 (by decide)

/-- Settles O10: from every state ENC shows its closed form, which is computed for each row. -/
theorem encodeCornerCases : Obligations.EncodeCornerCases := fun s b c r h =>
  ⟨_, EncClosedForm.exec_decode_enc b s, Prod.mk.inj (encFor_of_mem_encodeRows (b, c, r) h)⟩

/-- Settles O23: from every state DEC shows its closed form, which is computed for each row. -/
theorem verifyCornerCases : Obligations.VerifyCornerCases := fun s c l h =>
  ⟨_, Evaluation.exec_verify_eq_decFor c s, locationFor_of_mem_verifyRows (c, l) h⟩

end Sys2Proof.Proofs.SampleRows
end

section
/-! When a unit can be sampled (R101, R103, R105): once its input has been held for its propagation delay, and not before. -/

namespace Sys2Proof.Proofs.Sampling

open Sys2Proof.Machine Sys2Proof.Safety Sys2Proof.Proofs.EncClosedForm Sys2Proof.Proofs.Evaluation

@[simp] theorem encFor_settled (b : Byte) : (encFor b).settled = true := by
  unfold encFor
  split <;> rfl

@[simp] theorem sample_encFor (b : Byte) :
    (encFor b).sample = .ok ((encFor b).codewordOut, (encFor b).rejectOut) :=
  Enc.sample_eq_ok (encFor_settled b)

@[simp] theorem sample_decFor (c : Byte) : (decFor c).sample = .ok (locationFor c) :=
  Dec.sample_eq_ok rfl

theorem enc_sample_of_not_settled {e : Enc} (h : e.settled = false) :
    e.sample = .error (.outputsNotSettled .enc) := by
  simp [Enc.sample, h]

theorem dec_sample_of_not_settled {d : Dec} (h : d.settled = false) :
    d.sample = .error (.outputsNotSettled .dec) := by
  simp [Dec.sample, h]

/-- Settles O40: the reset state's units are not settled, and an evaluation settles the one it drives. -/
theorem nothingIsObservableBeforeTheFirstInput : Obligations.NothingIsObservableBeforeTheFirstInput :=
  ⟨enc_sample_of_not_settled rfl, dec_sample_of_not_settled rfl,
    fun b => ⟨_, exec_decode_enc b _, sample_encFor b, dec_sample_of_not_settled rfl⟩,
    fun c => ⟨_, exec_verify_eq_decFor c _, sample_decFor c, enc_sample_of_not_settled rfl⟩⟩

section
variable (T : Config.Delays) (b : Byte) {t : Nat}

theorem enc_driveFor_of_le (h : T.tPdEnc ≤ t) (e : Enc) : e.driveFor T b t = encFor b :=
  (if_pos h).trans (evaluate_eq_encFor b e)

theorem enc_driveFor_of_lt (h : t < T.tPdEnc) (e : Enc) : e.driveFor T b t = e.drive b :=
  if_neg (Nat.not_le.2 h)

theorem dec_driveFor_of_le (h : T.tPdDec ≤ t) (d : Dec) : d.driveFor T b t = decFor b :=
  (if_pos h).trans (OnlyException.decLogic_eq_decFor b)

theorem dec_driveFor_of_lt (h : t < T.tPdDec) (d : Dec) : d.driveFor T b t = d.drive b :=
  if_neg (Nat.not_le.2 h)

end

/-- An input that is new, or that stands on a unit not settled yet, leaves the unit not settled. -/
theorem settled_and_same_eq_false {settled : Bool} {new old : Byte} (h : new ≠ old ∨ settled = false) :
    (settled && new == old) = false := by
  obtain hnew | hunsettled := h
  · rw [beq_false_of_ne hnew, Bool.and_false]
  · rw [hunsettled, Bool.false_and]

/-- Settles O41: a hold of the delay ends at the closed form, a shorter one at a driven unit that is not settled. -/
theorem samplingNeedsAStableInput : Obligations.SamplingNeedsAStableInput := by
  refine ⟨fun T b t e hle => ?_, fun T b t e hlt hnew => ?_, fun T c t d hle => ?_, fun T c t d hlt hnew => ?_⟩
  · rw [enc_driveFor_of_le T b hle, sample_encFor]
  · rw [enc_driveFor_of_lt T b hlt]
    exact enc_sample_of_not_settled (settled_and_same_eq_false hnew)
  · rw [dec_driveFor_of_le T c hle, sample_decFor]
  · rw [dec_driveFor_of_lt T c hlt]
    exact dec_sample_of_not_settled (settled_and_same_eq_false hnew)

/-- R103: driving the byte that already stands on the port is no change. -/
theorem enc_drive_same (e : Enc) : e.drive e.dataIn = e := by
  simp [Enc.drive]

theorem dec_drive_same (d : Dec) : d.drive d.codewordIn = d := by
  simp [Dec.drive]

/-- Settles O42: a hold of the delay ends at the closed form, which a coherent settled unit shows already; a shorter one only
drives the byte again. -/
theorem holdingTheInputKeepsTheOutputs : Obligations.HoldingTheInputKeepsTheOutputs := by
  refine ⟨fun T t e hcoherent hsettled => ?_, fun T t d hcoherent hsettled => ?_⟩
  · obtain hlt | hle := Nat.lt_or_ge t T.tPdEnc
    · rw [enc_driveFor_of_lt T _ hlt, enc_drive_same]
    · rw [enc_driveFor_of_le T _ hle, ← hcoherent hsettled]
  · obtain hlt | hle := Nat.lt_or_ge t T.tPdDec
    · rw [dec_driveFor_of_lt T _ hlt, dec_drive_same]
    · rw [dec_driveFor_of_le T _ hle, ← hcoherent hsettled]

end Sys2Proof.Proofs.Sampling
end

section
/-! Several units of each kind side by side (R97, R40): an evaluation writes one place of one list, so evaluations of
different places commute and no other place sees it. -/

namespace Sys2Proof.Proofs.Fleets

open Sys2Proof.Machine Sys2Proof.Safety

theorem evaluate_enc (k : Nat) (b : Byte) (F : Fleet) :
    F.evaluate ⟨.enc, k, b⟩ = { F with encs := F.encs.modify k (Enc.evaluate b) } := rfl

theorem evaluate_dec (k : Nat) (c : Byte) (F : Fleet) :
    F.evaluate ⟨.dec, k, c⟩ = { F with decs := F.decs.modify k (Dec.evaluate c) } := rfl

theorem sample_enc (k : Nat) (F : Fleet) :
    F.sample (.enc, k) = F.encs[k]?.map fun e => e.sample.map fun o => .enc o.1 o.2 := rfl

theorem sample_dec (k : Nat) (F : Fleet) : F.sample (.dec, k) = F.decs[k]?.map fun d => d.sample.map .dec := rfl

theorem hasTarget_enc (k : Nat) (b : Byte) (F : Fleet) : F.hasTarget ⟨.enc, k, b⟩ = decide (k < F.encs.length) := rfl

theorem hasTarget_dec (k : Nat) (c : Byte) (F : Fleet) : F.hasTarget ⟨.dec, k, c⟩ = decide (k < F.decs.length) := rfl

theorem sample_evaluate_of_ne {e : Evaluation} {target : UnitName × Nat} (hne : target ≠ e.target) (F : Fleet) :
    (F.evaluate e).sample target = F.sample target := by
  obtain ⟨u, k, b⟩ := e
  obtain ⟨v, j⟩ := target
  have hindex : u = v → k ≠ j := fun huv hkj => hne (huv ▸ hkj ▸ rfl)
  cases u with
  | enc => cases v with
    | enc => rw [evaluate_enc, sample_enc, sample_enc, List.getElem?_modify_ne _ _ (hindex rfl)]
    | dec => rfl
  | dec => cases v with
    | enc => rfl
    | dec => rw [evaluate_dec, sample_dec, sample_dec, List.getElem?_modify_ne _ _ (hindex rfl)]

theorem sample_evaluate_self {e : Evaluation} {F : Fleet} (h : F.hasTarget e = true) :
    (F.evaluate e).sample e.target = some (.ok (outputFor e.unit e.byte)) := by
  obtain ⟨u, k, b⟩ := e
  cases u with
  | enc =>
    have hk : k < F.encs.length := of_decide_eq_true ((hasTarget_enc k b F).symm.trans h)
    rw [evaluate_enc, Evaluation.target, sample_enc, List.getElem?_modify_eq, List.getElem?_eq_getElem hk]
    simp [EncClosedForm.evaluate_eq_encFor, Except.map, outputFor]
  | dec =>
    have hk : k < F.decs.length := of_decide_eq_true ((hasTarget_dec k b F).symm.trans h)
    rw [evaluate_dec, Evaluation.target, sample_dec, List.getElem?_modify_eq, List.getElem?_eq_getElem hk]
    simp [OnlyException.decLogic_eq_decFor, Except.map, outputFor]

theorem length_encs_evaluate (e : Evaluation) (F : Fleet) : (F.evaluate e).encs.length = F.encs.length := by
  obtain ⟨u, k, b⟩ := e
  cases u with
  | enc => exact List.length_modify ..
  | dec => rfl

theorem length_decs_evaluate (e : Evaluation) (F : Fleet) : (F.evaluate e).decs.length = F.decs.length := by
  obtain ⟨u, k, b⟩ := e
  cases u with
  | enc => rfl
  | dec => exact List.length_modify ..

/-- No evaluation adds or takes away a unit. -/
theorem hasTarget_evaluate (e e' : Evaluation) (F : Fleet) : (F.evaluate e').hasTarget e = F.hasTarget e := by
  obtain ⟨u, k, b⟩ := e
  cases u with
  | enc => rw [hasTarget_enc, hasTarget_enc, length_encs_evaluate]
  | dec => rw [hasTarget_dec, hasTarget_dec, length_decs_evaluate]

theorem evaluate_evaluate_comm {e e' : Evaluation} (hne : e.target ≠ e'.target) (F : Fleet) :
    (F.evaluate e).evaluate e' = (F.evaluate e').evaluate e := by
  obtain ⟨u, k, b⟩ := e
  obtain ⟨u', k', b'⟩ := e'
  have hindex : u = u' → k ≠ k' := fun hu hk => hne (hu ▸ hk ▸ rfl)
  cases u with
  | enc => cases u' with
    | enc => simp only [evaluate_enc, List.modify_modify_ne _ _ _ (hindex rfl)]
    | dec => rfl
  | dec => cases u' with
    | enc => rfl
    | dec => simp only [evaluate_dec, List.modify_modify_ne _ _ _ (hindex rfl)]

/-- Settles O45: one place of one list is written, with the closed form. -/
theorem instancesShareNothing : Obligations.InstancesShareNothing := fun _ F _ =>
  ⟨fun hne => sample_evaluate_of_ne hne F, sample_evaluate_self⟩

/-- Settles O43: by induction on the evaluations; each one's unit shows its closed form, and the fleet keeps its units. -/
theorem fleetOutputsDependOnOwnInput : Obligations.FleetOutputsDependOnOwnInput := fun es F hes => by
  induction es generalizing F with
  | nil => rfl
  | cons e es ih =>
    obtain ⟨he, hrest⟩ := List.forall_mem_cons.1 hes
    have hkept : ∀ e' ∈ es, (F.evaluate e).hasTarget e' = true := fun e' he' =>
      (hasTarget_evaluate e' e F).trans (hrest e' he')
    rw [Fleet.outputs, sample_evaluate_self he, ih _ hkept, List.map_cons]

/-- Settles O44: a permutation swaps neighbours, and two evaluations of the list are the same one or commute. -/
theorem fleetOrderCannotBeObserved : Obligations.FleetOrderCannotBeObserved := fun es es' F hperm hnodup => by
  refine hperm.foldl_eq' (fun e he e' he' G => ?_) F
  by_cases htarget : e.target = e'.target
  · rw [List.inj_on_of_nodup_map hnodup he he' htarget]
  · exact evaluate_evaluate_comm htarget G

end Sys2Proof.Proofs.Fleets
end

section
/-! Host programs line by line (R57): what a read gives, what the block's operations give, and why a line stops. -/

namespace Sys2Proof.Proofs.HostPrograms

open Sys2Proof.Machine Sys2Proof.Safety

/-! ### Reads and lines -/

@[simp] theorem orStop_ok {α : Type} (a : α) (k : α → Host.Outcome Driver Fault Refusal) : orStop (.ok a) k = k a := rfl

@[simp] theorem orStop_error {α : Type} (f : Fault) (k : α → Host.Outcome Driver Fault Refusal) :
    orStop (.error f) k = .fault f := rfl

@[simp] theorem readSource_imm (b : Byte) (D : Driver) : D.readSource (.imm b) = .ok b := rfl

@[simp] theorem readSource_var (v : Var) (D : Driver) : D.readSource (.var v) = D.read v := rfl

@[simp] theorem readPosition_imm (k : BitVec 3) (D : Driver) : D.readPosition (.imm k) = .ok k := rfl

section
variable {D : Driver} {v : Var}

theorem read_of_some {b : Byte} (h : D.vars[v] = some b) : D.read v = .ok b := by
  simp [Driver.read, h]

theorem read_of_none (h : D.vars[v] = none) : D.read v = .error (.unwrittenVariable v) := by
  simp [Driver.read, h]

theorem readPosition_of_some {b : Byte} (h : D.vars[v] = some b) :
    D.readPosition (.var v) = .ok (b.extractLsb' 0 3) := by
  rw [Driver.readPosition, read_of_some h, Except.map]

theorem readPosition_of_none (h : D.vars[v] = none) :
    D.readPosition (.var v) = .error (.unwrittenVariable v) := by
  rw [Driver.readPosition, read_of_none h, Except.map]

theorem readSource_of_value {src : Source} {b : Byte} (h : src = .imm b ∨ ∃ v, src = .var v ∧ D.vars[v] = some b) :
    D.readSource src = .ok b := by
  obtain rfl | ⟨v, rfl, hv⟩ := h
  · rfl
  · exact read_of_some hv

variable {prog : List DriverOp} (hrun : D.halted = false)
include hrun

theorem step_of_line {op : DriverOp} (h : prog[D.line]? = some op) : D.step prog = D.perform op := by
  simp [Driver.step, hrun, h]

theorem step_of_no_line (h : prog[D.line]? = none) : D.step prog = .fault (.noSuchLine D.line) := by
  simp [Driver.step, hrun, h]

end

/-! ### The block's operations -/

theorem evaluate_eq (d : Drive) (D : Driver) (k : State → Host.Outcome Driver Fault Refusal) :
    D.evaluate d k = k (Evaluation.settledOn d D.block) := by
  rw [Driver.evaluate, Evaluation.step_offer, Evaluation.exec_decode]

/-- ENCODE always answers, rejected byte or not. -/
theorem encode_eq (vD : Var) (b : Byte) (D : Driver) : D.encode vD b = .next
    { D.write vD (encFor b).codewordOut with rej := some (encFor b).rejectOut, block := { D.block with enc := encFor b } } := by
  rw [Driver.encode, evaluate_eq]
  simp [Evaluation.settledOn]

theorem verify_eq (vD : Var) (c : Byte) (D : Driver) : D.verify vD c = .next
    { D.write vD (locationFor c) with block := { D.block with dec := decFor c } } := by
  rw [Driver.verify, evaluate_eq]
  simp [Evaluation.settledOn]

/-- Settles O46: the operand is read, the block takes one step, and its sample is written. -/
theorem driverBlockOperations : Obligations.DriverBlockOperations := by
  refine fun prog D vD src b hrun hsrc => ⟨fun hline => ?_, fun hline => ?_⟩
  · rw [step_of_line hrun hline, Driver.perform, readSource_of_value hsrc, orStop_ok, encode_eq]
    rfl
  · rw [step_of_line hrun hline, Driver.perform, readSource_of_value hsrc, orStop_ok, verify_eq]
    rfl

/-! ### The pseudo-ops -/

theorem one_shiftLeft_eq_oneAt (i : Nat) : 1#8 <<< i = oneAt i :=
  (BitVec.twoPow_eq 8 i).symm

/-- A variable's position is its bits 2:0. -/
theorem toNat_low_three (k : Byte) : (k.extractLsb' 0 3).toNat = k.toNat % 8 :=
  BitVec.extractLsb'_toNat 0 3 k

theorem add_eq_ofNat_mod (a b : Byte) : a + b = BitVec.ofNat 8 ((a.toNat + b.toNat) % 256) :=
  BitVec.eq_of_toNat_eq (by simp)

/-- Settles O47: each form reads its operands and writes `vD`. -/
theorem driverDataPseudoOperations : Obligations.DriverDataPseudoOperations := by
  intro prog D vD vS vK a k imm i hrun
  refine ⟨fun hline => ?_, fun hline hS => ?_, fun hline hS => ?_, fun hline hS hK => ?_, fun hline hS => ?_,
    fun hline hS => ?_, fun hline hS hK => ?_, fun hline hS => ?_⟩ <;> rw [step_of_line hrun hline, Driver.perform]
  · rfl
  · rw [readSource_var, read_of_some hS]
    rfl
  · rw [read_of_some hS, orStop_ok, readPosition_imm, orStop_ok, one_shiftLeft_eq_oneAt]
    rfl
  · rw [read_of_some hS, orStop_ok, readPosition_of_some hK, orStop_ok, one_shiftLeft_eq_oneAt, toNat_low_three]
    rfl
  · rw [read_of_some hS]
    rfl
  · rw [read_of_some hS]
    rfl
  · rw [read_of_some hS, orStop_ok, readSource_var, read_of_some hK]
    rfl
  · rw [read_of_some hS, orStop_ok, add_eq_ofNat_mod]
    rfl

theorem branch_beq (a imm : Byte) (label : Nat) (D : Driver) :
    D.branch (a == imm) label = { D with line := if a = imm then label else D.line + 1 } := by
  simp [Driver.branch]

theorem branch_bne (a imm : Byte) (label : Nat) (D : Driver) :
    D.branch (a != imm) label = { D with line := if a = imm then D.line + 1 else label } := by
  simp [Driver.branch]

theorem perform_brej_of_some {r : Bit} {D : Driver} (h : D.rej = some r) (label : Nat) :
    D.perform (.brej label) = .next { D with line := if r = 1#1 then label else D.line + 1 } := by
  simp [Driver.perform, Driver.branch, h]

theorem perform_brej_of_none {D : Driver} (h : D.rej = none) (label : Nat) :
    D.perform (.brej label) = .fault .unwrittenRej := by
  simp only [Driver.perform, h]

/-- Settles O48: each branch reads what its condition names and moves the line alone. -/
theorem driverBranches : Obligations.DriverBranches := by
  intro prog D vA a imm r label hrun
  refine ⟨fun hline => ?_, fun hline hA => ?_, fun hline hA => ?_, fun hline hrej => ?_, fun hline => ⟨?_, rfl⟩⟩ <;>
    rw [step_of_line hrun hline]
  · rfl
  · rw [Driver.perform, read_of_some hA, orStop_ok, branch_bne]
  · rw [Driver.perform, read_of_some hA, orStop_ok, branch_beq]
  · rw [perform_brej_of_some hrej]
  · rfl

/-! ### Why a line stops -/

/-- An outcome of a line of `D` that has no other fault than an unwritten value, and no refusal. -/
inductive StopsOnlyOnUnwritten (D : Driver) : Host.Outcome Driver Fault Refusal → Prop where
  | next (D' : Driver) : StopsOnlyOnUnwritten D (.next D')
  | unwrittenVariable (v : Var) (h : D.vars[v] = none) : StopsOnlyOnUnwritten D (.fault (.unwrittenVariable v))
  | unwrittenRej (h : D.rej = none) : StopsOnlyOnUnwritten D (.fault .unwrittenRej)

theorem stopsOnly_read {D : Driver} {v : Var} {k : Byte → Host.Outcome Driver Fault Refusal}
    (hk : ∀ b, StopsOnlyOnUnwritten D (k b)) : StopsOnlyOnUnwritten D (orStop (D.read v) k) := by
  cases hv : D.vars[v] with
  | none => rw [read_of_none hv]; exact .unwrittenVariable v hv
  | some b => rw [read_of_some hv]; exact hk b

theorem stopsOnly_readSource {D : Driver} {src : Source} {k : Byte → Host.Outcome Driver Fault Refusal}
    (hk : ∀ b, StopsOnlyOnUnwritten D (k b)) : StopsOnlyOnUnwritten D (orStop (D.readSource src) k) := by
  cases src with
  | imm b => exact hk b
  | var v => exact stopsOnly_read hk

theorem stopsOnly_readPosition {D : Driver} {pos : FlipPosition} {k : BitVec 3 → Host.Outcome Driver Fault Refusal}
    (hk : ∀ i, StopsOnlyOnUnwritten D (k i)) : StopsOnlyOnUnwritten D (orStop (D.readPosition pos) k) := by
  cases pos with
  | imm i => exact hk i
  | var v => cases hv : D.vars[v] with
    | none => rw [readPosition_of_none hv]; exact .unwrittenVariable v hv
    | some b => rw [readPosition_of_some hv]; exact hk _

theorem stopsOnly_perform (op : DriverOp) (D : Driver) : StopsOnlyOnUnwritten D (D.perform op) := by
  cases op with
  | encode vD src => exact stopsOnly_readSource fun b => encode_eq vD b D ▸ .next _
  | verify vD src => exact stopsOnly_readSource fun c => verify_eq vD c D ▸ .next _
  | flip vD vS k => exact stopsOnly_read fun _ => stopsOnly_readPosition fun _ => .next _
  | mov vD src => exact stopsOnly_readSource fun _ => .next _
  | and vD vS imm => exact stopsOnly_read fun _ => .next _
  | xor vD vS src => exact stopsOnly_read fun _ => stopsOnly_readSource fun _ => .next _
  | add vD vS imm => exact stopsOnly_read fun _ => .next _
  | b label => exact .next _
  | bne vA imm label => exact stopsOnly_read fun _ => .next _
  | beq vA imm label => exact stopsOnly_read fun _ => .next _
  | brej label =>
    cases hrej : D.rej with
    | none => rw [perform_brej_of_none hrej]; exact .unwrittenRej hrej
    | some r => rw [perform_brej_of_some hrej]; exact .next _
  | halt => exact .next _

/-- All the ways a line can end. -/
theorem step_cases (prog : List DriverOp) {D : Driver} (hrun : D.halted = false) :
    StopsOnlyOnUnwritten D (D.step prog) ∨
      (prog[D.line]? = none ∧ D.step prog = .fault (.noSuchLine D.line)) := by
  cases hline : prog[D.line]? with
  | none => exact .inr ⟨rfl, step_of_no_line hrun hline⟩
  | some op => exact .inl (step_of_line hrun hline ▸ stopsOnly_perform op D)

theorem step_eq_fault {prog : List DriverOp} {D : Driver} (hrun : D.halted = false) {f : Fault}
    (h : D.step prog = .fault f) :
    (∃ v, f = .unwrittenVariable v ∧ D.vars[v] = none) ∨ (f = .unwrittenRej ∧ D.rej = none) ∨
      (f = .noSuchLine D.line ∧ prog[D.line]? = none) := by
  obtain hstops | ⟨hnone, hmissing⟩ := step_cases prog hrun
  · rw [h] at hstops
    cases hstops with
    | unwrittenVariable v hv => exact .inl ⟨v, rfl, hv⟩
    | unwrittenRej hrej => exact .inr (.inl ⟨rfl, hrej⟩)
  · exact .inr (.inr ⟨Host.Outcome.fault.inj (h.symm.trans hmissing), hnone⟩)

theorem step_ne_refused (prog : List DriverOp) {D : Driver} (hrun : D.halted = false) (r : Refusal) :
    D.step prog ≠ .refused r := fun h => by
  obtain hstops | ⟨-, hmissing⟩ := step_cases prog hrun
  · rw [h] at hstops
    nomatch hstops
  · nomatch h.symm.trans hmissing

/-- Each of these forms begins by reading `vS`. -/
theorem perform_of_first_unwritten {D : Driver} {vS : Var} (hS : D.vars[vS] = none) (vD : Var) (k : FlipPosition)
    (src : Source) (imm : Byte) (label : Nat) : ∀ op ∈ ([.encode vD (.var vS), .verify vD (.var vS), .flip vD vS k,
      .mov vD (.var vS), .and vD vS imm, .xor vD vS src, .add vD vS imm, .bne vS imm label, .beq vS imm label] :
      List DriverOp), D.perform op = .fault (.unwrittenVariable vS) := by
  simp [Driver.perform, read_of_none hS]

/-- FLIP and XOR read `vK` after `vS`. -/
theorem perform_of_second_unwritten {D : Driver} {vS vK : Var} {a : Byte} (hS : D.vars[vS] = some a)
    (hK : D.vars[vK] = none) (vD : Var) : ∀ op ∈ ([.flip vD vS (.var vK), .xor vD vS (.var vK)] : List DriverOp),
      D.perform op = .fault (.unwrittenVariable vK) := by
  simp [Driver.perform, read_of_some hS, read_of_none hK, readPosition_of_none hK]

/-- Settles O49: by the ways a line can end, and the read that each form begins with. -/
theorem driverStopsOnlyOnUnwritten : Obligations.DriverStopsOnlyOnUnwritten := by
  refine fun prog D hrun => ⟨fun _ => step_eq_fault hrun, step_ne_refused prog hrun,
    fun vD vS k src imm label op hS hline hop => ?_, fun vD vS vK a op hS hK hline hop => ?_,
    fun label hrej hline => ?_, step_of_no_line hrun⟩
  · rw [step_of_line hrun hline, perform_of_first_unwritten hS vD k src imm label op hop]
  · rw [step_of_line hrun hline, perform_of_second_unwritten hS hK vD op hop]
  · rw [step_of_line hrun hline, perform_brej_of_none hrej]

end Sys2Proof.Proofs.HostPrograms
end
